-- ==== Sys2Proof/Word.lean ====
section
/-! DEFINITION. The data word of the core (00_scope R6 `W`, R8): 32 bits, unsigned, bit 0 the least
significant (R7). Its arithmetic is in Machine/Ops.lean. -/

namespace Sys2Proof

/-- A data word: block half, key, table entry or result (00_scope R6, R8). -/
abbrev Word := BitVec 32

end Sys2Proof
end

