-- ==== Sys2Proof/Syntax.lean ====
section
/-! DEFINITION. The requests of the core: the operators and operator triples, the two ports' packed
request words, and one constructor of `Instr` for each of the 28 operations (30_encoding R44 to R52). -/

namespace Sys2Proof

/-- An operator that a slot of the operator triple may hold (00_scope R8, 30_encoding R49). -/
inductive Op where
  | add
  | sub
  | xor
  deriving DecidableEq, Repr

/-- The operator triple `(OPA, OPB, OPC)`: applied first, second and last (30_encoding R50). -/
structure OpTriple where
  a : Op
  b : Op
  c : Op
  deriving DecidableEq, Repr

/-- A request as it is presented at a port: the 75-bit `REQ` of the round port `RND` (30_encoding
R45) or the 11-bit `TREQ` of the table port `TBL` (R47). -/
inductive PortWord where
  | rnd (req : BitVec 75)
  | tbl (treq : BitVec 11)
  deriving DecidableEq, Repr

/-- The 28 operations (30_encoding R52). The operands stand in the assembler's order (R56, R57). Their
types are the fields' widths, so that no operand out of range exists (R53: every bit pattern of
`KR`, `KM`, `R`, `TSEL` and `IDX` is legal). -/
inductive Instr where
  | sboxRd (t : BitVec 3) (i : BitVec 8)
  | roundAddAddAdd (km : Word) (kr : BitVec 5) (r : Word)
  | roundAddAddSub (km : Word) (kr : BitVec 5) (r : Word)
  | roundAddAddXor (km : Word) (kr : BitVec 5) (r : Word)
  | roundAddSubAdd (km : Word) (kr : BitVec 5) (r : Word)
  | roundAddSubSub (km : Word) (kr : BitVec 5) (r : Word)
  | roundAddSubXor (km : Word) (kr : BitVec 5) (r : Word)
  | roundAddXorAdd (km : Word) (kr : BitVec 5) (r : Word)
  | roundAddXorSub (km : Word) (kr : BitVec 5) (r : Word)
  | roundAddXorXor (km : Word) (kr : BitVec 5) (r : Word)
  | roundSubAddAdd (km : Word) (kr : BitVec 5) (r : Word)
  | roundSubAddSub (km : Word) (kr : BitVec 5) (r : Word)
  | roundSubAddXor (km : Word) (kr : BitVec 5) (r : Word)
  | roundSubSubAdd (km : Word) (kr : BitVec 5) (r : Word)
  | roundSubSubSub (km : Word) (kr : BitVec 5) (r : Word)
  | roundSubSubXor (km : Word) (kr : BitVec 5) (r : Word)
  | roundSubXorAdd (km : Word) (kr : BitVec 5) (r : Word)
  | roundSubXorSub (km : Word) (kr : BitVec 5) (r : Word)
  | roundSubXorXor (km : Word) (kr : BitVec 5) (r : Word)
  | roundXorAddAdd (km : Word) (kr : BitVec 5) (r : Word)
  | roundXorAddSub (km : Word) (kr : BitVec 5) (r : Word)
  | roundXorAddXor (km : Word) (kr : BitVec 5) (r : Word)
  | roundXorSubAdd (km : Word) (kr : BitVec 5) (r : Word)
  | roundXorSubSub (km : Word) (kr : BitVec 5) (r : Word)
  | roundXorSubXor (km : Word) (kr : BitVec 5) (r : Word)
  | roundXorXorAdd (km : Word) (kr : BitVec 5) (r : Word)
  | roundXorXorSub (km : Word) (kr : BitVec 5) (r : Word)
  | roundXorXorXor (km : Word) (kr : BitVec 5) (r : Word)
  deriving DecidableEq, Repr

end Sys2Proof
end

