-- ==== Sys2Proof/Config.lean ====
section
/-! DEFINITION. What an implementation or the environment fixes (00_scope R6, 92_eei_decisions): the
open table contents, the free choice of the next request served, and the driver's round types. -/

namespace Sys2Proof

/-- `SBOX_ROM`: the word of table `t` at index `i`, fixed for the machine and given by no rule
(00_scope R6, 10_state R17, decision D11). It has no body here, so nothing proved depends on a table
word. Log entry 1. -/
opaque Config.sboxRom : BitVec 3 → BitVec 8 → Word

/-- A free value: which of the requests in flight is served next, for the `n`th request served. The
spec leaves the order open and unobservable (20_memory R36, R42, 93 U9). Log entry 3. -/
opaque Config.arbiter : Nat → Nat

/-- The rounds the driver runs for one block (00_scope R6 `NROUNDS`); the core does not read it. -/
def Config.nRounds : Nat := 16

/-- `VALID_TRIPLES` with its map from round types to triples: the three triples the cipher uses, one for
each round type (30_encoding R54, decision D8). An argument of the driver's functions; the core never
reads it. Log entry 15. -/
structure RoundTypes where
  type1 : OpTriple
  type2 : OpTriple
  type3 : OpTriple
  deriving DecidableEq, Repr

end Sys2Proof
end

