-- ==== Sys2Proof/WellFormed.lean ====
section
/-! DEFINITION. The checks: a request is well formed when no slot of its `OPSEL` is the reserved code
(30_encoding R53), and a choice of round types when it can be `VALID_TRIPLES` (R54). Every term of
`Instr` is well formed by its type: its fields admit no value out of range (R51, R53). -/

namespace Sys2Proof

/-- The reserved 2-bit operator code (30_encoding R49). -/
def codeReserved (c : BitVec 2) : Bool := c == 0b11#2

/-- An `OPSEL` is reserved when any of its three slots is (30_encoding R53). -/
def opselReserved (o : BitVec 6) : Bool :=
  codeReserved (o.extractLsb' 4 2) || codeReserved (o.extractLsb' 2 2)
    || codeReserved (o.extractLsb' 0 2)

/-- A request the spec gives a meaning: any table request, and a round request whose `OPSEL` is not
reserved (30_encoding R47, R53). -/
def PortWord.wellFormed : PortWord → Bool
  | .tbl _ => true
  | .rnd req => !opselReserved (req.extractLsb' 69 6)

/-- What the source says of the valid triples: exactly three, and (ADD, XOR, SUB) is one of them
(30_encoding R54). -/
def RoundTypes.wellFormed (v : RoundTypes) : Bool :=
  v.type1 != v.type2 && v.type1 != v.type3 && v.type2 != v.type3
    && ([v.type1, v.type2, v.type3].contains ⟨.add, .xor, .sub⟩)

end Sys2Proof
end

