-- ==== Sys2Proof/Decode.lean ====
section
/-! DEFINITION. Decoding: the packed request of a port to an instruction, reserved `OPSEL` values
rejected by name (30_encoding R45, R47, R49, R50, R53); then the encoder, from the `OPSEL` values
of the operations' own rules (41 R76 to R102). -/

namespace Sys2Proof

/-- Why a request is no instruction. -/
inductive DecodeError where
  /-- A slot of this `OPSEL` is `11` (30_encoding R53). -/
  | reservedOpsel (opsel : BitVec 6)
  deriving DecidableEq, Repr

/-- The operator of a 2-bit code, none for the reserved one (30_encoding R49). -/
def Op.ofCode (c : BitVec 2) : Option Op :=
  if c = 0b00#2 then some .add
  else if c = 0b01#2 then some .sub
  else if c = 0b10#2 then some .xor
  else none

/-- The operation `ROUND.<OPA>.<OPB>.<OPC>` of a triple (30_encoding R52). -/
def Instr.round (ops : OpTriple) (km : Word) (kr : BitVec 5) (r : Word) : Instr :=
  match ops with
  | ⟨.add, .add, .add⟩ => .roundAddAddAdd km kr r
  | ⟨.add, .add, .sub⟩ => .roundAddAddSub km kr r
  | ⟨.add, .add, .xor⟩ => .roundAddAddXor km kr r
  | ⟨.add, .sub, .add⟩ => .roundAddSubAdd km kr r
  | ⟨.add, .sub, .sub⟩ => .roundAddSubSub km kr r
  | ⟨.add, .sub, .xor⟩ => .roundAddSubXor km kr r
  | ⟨.add, .xor, .add⟩ => .roundAddXorAdd km kr r
  | ⟨.add, .xor, .sub⟩ => .roundAddXorSub km kr r
  | ⟨.add, .xor, .xor⟩ => .roundAddXorXor km kr r
  | ⟨.sub, .add, .add⟩ => .roundSubAddAdd km kr r
  | ⟨.sub, .add, .sub⟩ => .roundSubAddSub km kr r
  | ⟨.sub, .add, .xor⟩ => .roundSubAddXor km kr r
  | ⟨.sub, .sub, .add⟩ => .roundSubSubAdd km kr r
  | ⟨.sub, .sub, .sub⟩ => .roundSubSubSub km kr r
  | ⟨.sub, .sub, .xor⟩ => .roundSubSubXor km kr r
  | ⟨.sub, .xor, .add⟩ => .roundSubXorAdd km kr r
  | ⟨.sub, .xor, .sub⟩ => .roundSubXorSub km kr r
  | ⟨.sub, .xor, .xor⟩ => .roundSubXorXor km kr r
  | ⟨.xor, .add, .add⟩ => .roundXorAddAdd km kr r
  | ⟨.xor, .add, .sub⟩ => .roundXorAddSub km kr r
  | ⟨.xor, .add, .xor⟩ => .roundXorAddXor km kr r
  | ⟨.xor, .sub, .add⟩ => .roundXorSubAdd km kr r
  | ⟨.xor, .sub, .sub⟩ => .roundXorSubSub km kr r
  | ⟨.xor, .sub, .xor⟩ => .roundXorSubXor km kr r
  | ⟨.xor, .xor, .add⟩ => .roundXorXorAdd km kr r
  | ⟨.xor, .xor, .sub⟩ => .roundXorXorSub km kr r
  | ⟨.xor, .xor, .xor⟩ => .roundXorXorXor km kr r

/-- Decodes a `REQ` (30_encoding R45): the fields, and the triple of the three slots of `OPSEL` (R50). -/
def decodeRnd (req : BitVec 75) : Except DecodeError Instr :=
  let opsel : BitVec 6 := req.extractLsb' 69 6
  let kr : BitVec 5 := req.extractLsb' 64 5
  let km : Word := req.extractLsb' 32 32
  let r : Word := req.extractLsb' 0 32
  match Op.ofCode (opsel.extractLsb' 4 2), Op.ofCode (opsel.extractLsb' 2 2),
      Op.ofCode (opsel.extractLsb' 0 2) with
  | some a, some b, some c => .ok (Instr.round ⟨a, b, c⟩ km kr r)
  | _, _, _ => .error (.reservedOpsel opsel)

/-- Decodes a `TREQ` (30_encoding R47): every one of the 2048 values is a legal request. -/
def decodeTbl (treq : BitVec 11) : Instr :=
  .sboxRd (treq.extractLsb' 8 3) (treq.extractLsb' 0 8)

/-- Decodes the request of either port: total, and rejecting a reserved `OPSEL` by name
(30_encoding R52, R53). -/
def decode : PortWord → Except DecodeError Instr
  | .tbl treq => .ok (decodeTbl treq)
  | .rnd req => decodeRnd req

/-- Packs a `REQ`: `OPSEL`, `KR`, `KM`, `R` from the high bits down (30_encoding R45). -/
def packRnd (opsel : BitVec 6) (kr : BitVec 5) (km r : Word) : BitVec 75 :=
  opsel ++ kr ++ km ++ r

/-- Packs a `TREQ`: `TSEL`, then `IDX` (30_encoding R47). -/
def packTbl (t : BitVec 3) (i : BitVec 8) : BitVec 11 :=
  t ++ i

/-- The request of an instruction, each `OPSEL` as the operation's own rule gives it
(40 R60, 41 R76 to R102). -/
def encode : Instr → PortWord
  | .sboxRd t i => .tbl (packTbl t i)
  | .roundAddAddAdd km kr r => .rnd (packRnd 0b000000#6 kr km r)
  | .roundAddAddSub km kr r => .rnd (packRnd 0b000001#6 kr km r)
  | .roundAddAddXor km kr r => .rnd (packRnd 0b000010#6 kr km r)
  | .roundAddSubAdd km kr r => .rnd (packRnd 0b000100#6 kr km r)
  | .roundAddSubSub km kr r => .rnd (packRnd 0b000101#6 kr km r)
  | .roundAddSubXor km kr r => .rnd (packRnd 0b000110#6 kr km r)
  | .roundAddXorAdd km kr r => .rnd (packRnd 0b001000#6 kr km r)
  | .roundAddXorSub km kr r => .rnd (packRnd 0b001001#6 kr km r)
  | .roundAddXorXor km kr r => .rnd (packRnd 0b001010#6 kr km r)
  | .roundSubAddAdd km kr r => .rnd (packRnd 0b010000#6 kr km r)
  | .roundSubAddSub km kr r => .rnd (packRnd 0b010001#6 kr km r)
  | .roundSubAddXor km kr r => .rnd (packRnd 0b010010#6 kr km r)
  | .roundSubSubAdd km kr r => .rnd (packRnd 0b010100#6 kr km r)
  | .roundSubSubSub km kr r => .rnd (packRnd 0b010101#6 kr km r)
  | .roundSubSubXor km kr r => .rnd (packRnd 0b010110#6 kr km r)
  | .roundSubXorAdd km kr r => .rnd (packRnd 0b011000#6 kr km r)
  | .roundSubXorSub km kr r => .rnd (packRnd 0b011001#6 kr km r)
  | .roundSubXorXor km kr r => .rnd (packRnd 0b011010#6 kr km r)
  | .roundXorAddAdd km kr r => .rnd (packRnd 0b100000#6 kr km r)
  | .roundXorAddSub km kr r => .rnd (packRnd 0b100001#6 kr km r)
  | .roundXorAddXor km kr r => .rnd (packRnd 0b100010#6 kr km r)
  | .roundXorSubAdd km kr r => .rnd (packRnd 0b100100#6 kr km r)
  | .roundXorSubSub km kr r => .rnd (packRnd 0b100101#6 kr km r)
  | .roundXorSubXor km kr r => .rnd (packRnd 0b100110#6 kr km r)
  | .roundXorXorAdd km kr r => .rnd (packRnd 0b101000#6 kr km r)
  | .roundXorXorSub km kr r => .rnd (packRnd 0b101001#6 kr km r)
  | .roundXorXorXor km kr r => .rnd (packRnd 0b101010#6 kr km r)

/-- What an instruction asks for, with the operator triple as data: one table word (40 R60) or the
Round Transform with a triple (41 R62). -/
inductive Ask where
  | table (t : BitVec 3) (i : BitVec 8)
  | transform (ops : OpTriple) (km : Word) (kr : BitVec 5) (r : Word)
  deriving DecidableEq, Repr

/-- The operation that a mnemonic of the opcode map names (30_encoding R52). -/
def Instr.ask : Instr → Ask
  | .sboxRd t i => .table t i
  | .roundAddAddAdd km kr r => .transform ⟨.add, .add, .add⟩ km kr r
  | .roundAddAddSub km kr r => .transform ⟨.add, .add, .sub⟩ km kr r
  | .roundAddAddXor km kr r => .transform ⟨.add, .add, .xor⟩ km kr r
  | .roundAddSubAdd km kr r => .transform ⟨.add, .sub, .add⟩ km kr r
  | .roundAddSubSub km kr r => .transform ⟨.add, .sub, .sub⟩ km kr r
  | .roundAddSubXor km kr r => .transform ⟨.add, .sub, .xor⟩ km kr r
  | .roundAddXorAdd km kr r => .transform ⟨.add, .xor, .add⟩ km kr r
  | .roundAddXorSub km kr r => .transform ⟨.add, .xor, .sub⟩ km kr r
  | .roundAddXorXor km kr r => .transform ⟨.add, .xor, .xor⟩ km kr r
  | .roundSubAddAdd km kr r => .transform ⟨.sub, .add, .add⟩ km kr r
  | .roundSubAddSub km kr r => .transform ⟨.sub, .add, .sub⟩ km kr r
  | .roundSubAddXor km kr r => .transform ⟨.sub, .add, .xor⟩ km kr r
  | .roundSubSubAdd km kr r => .transform ⟨.sub, .sub, .add⟩ km kr r
  | .roundSubSubSub km kr r => .transform ⟨.sub, .sub, .sub⟩ km kr r
  | .roundSubSubXor km kr r => .transform ⟨.sub, .sub, .xor⟩ km kr r
  | .roundSubXorAdd km kr r => .transform ⟨.sub, .xor, .add⟩ km kr r
  | .roundSubXorSub km kr r => .transform ⟨.sub, .xor, .sub⟩ km kr r
  | .roundSubXorXor km kr r => .transform ⟨.sub, .xor, .xor⟩ km kr r
  | .roundXorAddAdd km kr r => .transform ⟨.xor, .add, .add⟩ km kr r
  | .roundXorAddSub km kr r => .transform ⟨.xor, .add, .sub⟩ km kr r
  | .roundXorAddXor km kr r => .transform ⟨.xor, .add, .xor⟩ km kr r
  | .roundXorSubAdd km kr r => .transform ⟨.xor, .sub, .add⟩ km kr r
  | .roundXorSubSub km kr r => .transform ⟨.xor, .sub, .sub⟩ km kr r
  | .roundXorSubXor km kr r => .transform ⟨.xor, .sub, .xor⟩ km kr r
  | .roundXorXorAdd km kr r => .transform ⟨.xor, .xor, .add⟩ km kr r
  | .roundXorXorSub km kr r => .transform ⟨.xor, .xor, .sub⟩ km kr r
  | .roundXorXorXor km kr r => .transform ⟨.xor, .xor, .xor⟩ km kr r

/-- The request that a number of the opcode table stands for, `nbits` being the row's width in whole
bytes: up to 16 bits a `TREQ`, above that a `REQ`; none when the number has a bit that the port does
not have. Log entry 10. -/
def portWordOfTable (nbits w : Nat) : Option PortWord :=
  if nbits ≤ 16 then
    if w < 2 ^ 11 then some (.tbl (BitVec.ofNat 11 w)) else none
  else
    if w < 2 ^ 75 then some (.rnd (BitVec.ofNat 75 w)) else none

/-- The instruction the decoder reads from a number of the opcode table. -/
def decodeTableWord (nbits w : Nat) : Option Instr :=
  match portWordOfTable nbits w with
  | none => none
  | some q =>
    match decode q with
    | .ok i => some i
    | .error _ => none

end Sys2Proof
end

