-- ==== Sys2Proof/Machine/State.lean ====
section
/-! DEFINITION. The state of the core and of its edge, and the state after reset (10_state R14 to R27,
70 R114). The core's own state is the table ROM and nothing else (R14); the reset input and the
requests in flight stand at its edge; the record of the responses and the arbiter's counter are the
model's own. -/

namespace Sys2Proof.Machine

/-- The table space: word cells `(word address, word)`, addresses strictly rising, for the words that
differ from what an unlisted address reads as (`unlistedWord`, Machine/Ops.lean). The smallest
addressable unit of this hardware is the 32-bit word; there is no byte address (20_memory R29, R30).
Log entry 2. -/
abbrev Rom := List (Nat × Word)

/-- A response: `RSP.F` of the round port (30_encoding R46) or `RSP.Q` of the table port (R48). -/
inductive Response where
  | f (word : Word)
  | q (word : Word)
  deriving DecidableEq, Repr

/-- A response delivered to the host, with the request it answers (30_encoding R59). -/
structure Answer where
  request : Instr
  response : Response
  deriving DecidableEq, Repr

/-- The state. `rom` is the core's whole architectural state (10_state R14). -/
structure State where
  /-- The substitution-table ROM (10_state R15). -/
  rom : Rom
  /-- The reset input (70 R114). -/
  resetAsserted : Bool
  /-- The requests presented and not yet answered, in the order presented (10_state R27, 60 R112). -/
  inFlight : List PortWord
  /-- The model's own: the responses delivered so far, oldest first. The core keeps none of them
  (70 R122). Log entry 4. -/
  answers : List Answer
  /-- The model's own: counts the requests served, the argument of `Config.arbiter`. Log entry 3. -/
  arbiterTick : Nat
  deriving DecidableEq, Repr

/-- The exceptions and faults of the core: there are none. "The set of exception causes is empty"
(60 R103), so no step raises one. Log entry 13. -/
inductive Fault where
  deriving DecidableEq, Repr

/-- Why a step has no meaning to give. -/
inductive Refusal where
  /-- Raised by an arm of `exec` whose instruction has no meaning yet. Safe. -/
  | notModelled (mnemonic : String)
  /-- Raised by `step` when the request it serves has a slot `11` in its `OPSEL`: the spec leaves the
  response unspecified and asks a model to refuse (30_encoding R53, 60 R105, 93 U1). Safe: the
  hardware returns some word and goes on. Log entry 6. -/
  | reservedOpsel (opsel : BitVec 6)
  deriving DecidableEq, Repr

/-- The state once reset is released: the ROM holds `SBOX_ROM` (nothing listed), nothing is in flight
(10_state R27, 70 R114, R115). -/
def State.reset : State where
  rom := []
  resetAsserted := false
  inFlight := []
  answers := []
  arbiterTick := 0

end Sys2Proof.Machine
end

