-- ==== Sys2Proof/Machine/Ops.lean ====
section
/-! DEFINITION. The shared operations: the word primitives (00_scope R8, R9), the reading of the table
ROM (R11, 20_memory R28 to R35), and the delivery of a response. There is no write of the ROM (R35),
no exception to take and none to return from (60 R103, R108, R109). -/

namespace Sys2Proof.Machine

/-- `add32`: addition modulo 2^32 (00_scope R8). -/
def add32 (a b : Word) : Word := a + b

/-- `sub32`: left operand minus right operand, modulo 2^32 (00_scope R8). -/
def sub32 (a b : Word) : Word := a - b

/-- `xor32`: bitwise exclusive-or (00_scope R8). -/
def xor32 (a b : Word) : Word := a ^^^ b

/-- `apply(op, a, b)`, `a` the left operand (00_scope R8). -/
def applyOp : Op → Word → Word → Word
  | .add, a, b => add32 a b
  | .sub, a, b => sub32 a b
  | .xor, a, b => xor32 a b

/-- `rotl32(x, n)`: circular left rotation by a 5-bit amount (00_scope R9). -/
def rotl32 (x : Word) (n : BitVec 5) : Word := x.rotateLeft n.toNat

/-- The word address `A = 256·t + i` of an entry (20_memory R29). -/
def wordAddr (t : BitVec 3) (i : BitVec 8) : BitVec 11 := t ++ i

/-- What an unlisted address of the table space reads as: `SBOX_ROM` at its table and index
(10_state R27, 20_memory R29). -/
def unlistedWord (a : BitVec 11) : Word :=
  Config.sboxRom (a.extractLsb' 8 3) (a.extractLsb' 0 8)

/-- The word a cell lists for an address. -/
def romCell : Rom → Nat → Option Word
  | [], _ => none
  | (k, w) :: rest, a => if k = a then some w else romCell rest a

/-- The word at a word address: `MemRead(A, 4)` (20_memory R29). Total: all 2048 addresses exist
(R31, R37). -/
def romReadAddr (m : Rom) (a : BitVec 11) : Word := (romCell m a.toNat).getD (unlistedWord a)

/-- `Rom(t, i)` (00_scope R11). -/
def romRead (m : Rom) (t : BitVec 3) (i : BitVec 8) : Word := romReadAddr m (wordAddr t i)

/-- The canonical form from address `lo` up: addresses strictly rising and in the table space, no cell
equal to what its address reads as unlisted. -/
def romWfFrom : Nat → Rom → Bool
  | _, [] => true
  | lo, (a, w) :: rest =>
    decide (lo ≤ a) && decide (a < 2048) && decide (w ≠ unlistedWord (BitVec.ofNat 11 a))
      && romWfFrom (a + 1) rest

/-- The canonical form of the table space. -/
def Rom.wf (m : Rom) : Bool := romWfFrom 0 m

/-- One response leaves the core: the host records it, and nothing else changes (30_encoding R59,
70 R122). -/
def State.deliver (s : State) (i : Instr) (v : Response) : State :=
  { s with answers := s.answers ++ [⟨i, v⟩] }

end Sys2Proof.Machine
end

