-- ==== Sys2Proof/Machine/Operands.lean ====
section
/-! DEFINITION. The operands a `ROUND` request forms: the lanes of the rotated word, the lane-to-table
map, the four lookups and their combination (00_scope R10, 41 R63 to R69). Every other operand is a
request field used as it stands (30_encoding R51). -/

namespace Sys2Proof.Machine

/-- The four byte lanes of a word (00_scope R10). -/
inductive Lane where
  | lane0
  | lane1
  | lane2
  | lane3
  deriving DecidableEq, Repr

/-- The byte of a lane (00_scope R10). -/
def laneOf : Lane → Word → BitVec 8
  | .lane0, x => x.extractLsb' 0 8
  | .lane1, x => x.extractLsb' 8 8
  | .lane2, x => x.extractLsb' 16 8
  | .lane3, x => x.extractLsb' 24 8

/-- Which lane indexes each of the tables 0 to 3 (00_scope R6 `LANE_MAP`). -/
structure LaneMap where
  table0 : Lane
  table1 : Lane
  table2 : Lane
  table3 : Lane
  deriving DecidableEq, Repr

/-- `LANE_MAP`: table0 by bits 15:8, table1 by bits 7:0, table2 by bits 31:24, table3 by bits 23:16
(41 R65, decision D12, which the source hedges: 93 U2). Log entry 7. -/
def laneMap : LaneMap := ⟨.lane1, .lane0, .lane3, .lane2⟩

/-- The four looked-up words `v0` to `v3` (41 R66). -/
structure TableWords where
  v0 : Word
  v1 : Word
  v2 : Word
  v3 : Word
  deriving DecidableEq, Repr

/-- Steps 1 and 2: the key addition, the same for every triple, and the rotation (41 R63, R64). -/
def rotatedWord (km : Word) (kr : BitVec 5) (r : Word) : Word := rotl32 (add32 km r) kr

/-- Steps 3 and 4: one word of each of the tables 0 to 3, indexed by the lanes of `u` (41 R65, R66). -/
def lookup (lanes : LaneMap) (m : Rom) (u : Word) : TableWords where
  v0 := romRead m 0#3 (laneOf lanes.table0 u)
  v1 := romRead m 1#3 (laneOf lanes.table1 u)
  v2 := romRead m 2#3 (laneOf lanes.table2 u)
  v3 := romRead m 3#3 (laneOf lanes.table3 u)

/-- Step 5: strictly left to right, the accumulated value on the left (41 R67). -/
def combine (ops : OpTriple) (v : TableWords) : Word :=
  applyOp ops.c (applyOp ops.b (applyOp ops.a v.v0 v.v1) v.v2) v.v3

/-- `ROUNDF` (41 R69), for any lane map (93 U2). -/
def roundF (lanes : LaneMap) (ops : OpTriple) (m : Rom) (km : Word) (kr : BitVec 5) (r : Word) :
    Word :=
  combine ops (lookup lanes m (rotatedWord km kr r))

end Sys2Proof.Machine
end

