-- ==== Sys2Proof/Machine/Round.lean ====
section
/-! DEFINITION. The Round Transform: the 27 operations `ROUND.<OPA>.<OPB>.<OPC>` (41 R62 to R102), one
meaning each over the one shared transform (R69). -/

namespace Sys2Proof.Machine

/-- A `ROUND` request answered: `RSP.F <- ROUNDF(ops, KM, KR, R)`, no other effect and no exclusive-or
into the left half (41 R68, R69). -/
def answerRound (i : Instr) (ops : OpTriple) (km : Word) (kr : BitVec 5) (r : Word) (s : State) :
    Host.Outcome State Fault Refusal :=
  .next (s.deliver i (.f (roundF laneMap ops s.rom km kr r)))

/-- `ROUND.ADD.ADD.ADD`: F = ((v0 + v1) + v2) + v3 (41 R76). -/
def execRoundAddAddAdd (km : Word) (kr : BitVec 5) (r : Word) (s : State) :
    Host.Outcome State Fault Refusal :=
  answerRound (.roundAddAddAdd km kr r) ⟨.add, .add, .add⟩ km kr r s

/-- `ROUND.ADD.ADD.SUB`: F = ((v0 + v1) + v2) − v3 (41 R77). -/
def execRoundAddAddSub (km : Word) (kr : BitVec 5) (r : Word) (s : State) :
    Host.Outcome State Fault Refusal :=
  answerRound (.roundAddAddSub km kr r) ⟨.add, .add, .sub⟩ km kr r s

/-- `ROUND.ADD.ADD.XOR`: F = ((v0 + v1) + v2) xor v3 (41 R78). -/
def execRoundAddAddXor (km : Word) (kr : BitVec 5) (r : Word) (s : State) :
    Host.Outcome State Fault Refusal :=
  answerRound (.roundAddAddXor km kr r) ⟨.add, .add, .xor⟩ km kr r s

/-- `ROUND.ADD.SUB.ADD`: F = ((v0 + v1) − v2) + v3 (41 R79). -/
def execRoundAddSubAdd (km : Word) (kr : BitVec 5) (r : Word) (s : State) :
    Host.Outcome State Fault Refusal :=
  answerRound (.roundAddSubAdd km kr r) ⟨.add, .sub, .add⟩ km kr r s

/-- `ROUND.ADD.SUB.SUB`: F = ((v0 + v1) − v2) − v3 (41 R80). -/
def execRoundAddSubSub (km : Word) (kr : BitVec 5) (r : Word) (s : State) :
    Host.Outcome State Fault Refusal :=
  answerRound (.roundAddSubSub km kr r) ⟨.add, .sub, .sub⟩ km kr r s

/-- `ROUND.ADD.SUB.XOR`: F = ((v0 + v1) − v2) xor v3 (41 R81). -/
def execRoundAddSubXor (km : Word) (kr : BitVec 5) (r : Word) (s : State) :
    Host.Outcome State Fault Refusal :=
  answerRound (.roundAddSubXor km kr r) ⟨.add, .sub, .xor⟩ km kr r s

/-- `ROUND.ADD.XOR.ADD`: F = ((v0 + v1) xor v2) + v3 (41 R82). -/
def execRoundAddXorAdd (km : Word) (kr : BitVec 5) (r : Word) (s : State) :
    Host.Outcome State Fault Refusal :=
  answerRound (.roundAddXorAdd km kr r) ⟨.add, .xor, .add⟩ km kr r s

/-- `ROUND.ADD.XOR.SUB`: F = ((v0 + v1) xor v2) − v3 (41 R83). -/
def execRoundAddXorSub (km : Word) (kr : BitVec 5) (r : Word) (s : State) :
    Host.Outcome State Fault Refusal :=
  answerRound (.roundAddXorSub km kr r) ⟨.add, .xor, .sub⟩ km kr r s

/-- `ROUND.ADD.XOR.XOR`: F = ((v0 + v1) xor v2) xor v3 (41 R84). -/
def execRoundAddXorXor (km : Word) (kr : BitVec 5) (r : Word) (s : State) :
    Host.Outcome State Fault Refusal :=
  answerRound (.roundAddXorXor km kr r) ⟨.add, .xor, .xor⟩ km kr r s

/-- `ROUND.SUB.ADD.ADD`: F = ((v0 − v1) + v2) + v3 (41 R85). -/
def execRoundSubAddAdd (km : Word) (kr : BitVec 5) (r : Word) (s : State) :
    Host.Outcome State Fault Refusal :=
  answerRound (.roundSubAddAdd km kr r) ⟨.sub, .add, .add⟩ km kr r s

/-- `ROUND.SUB.ADD.SUB`: F = ((v0 − v1) + v2) − v3 (41 R86). -/
def execRoundSubAddSub (km : Word) (kr : BitVec 5) (r : Word) (s : State) :
    Host.Outcome State Fault Refusal :=
  answerRound (.roundSubAddSub km kr r) ⟨.sub, .add, .sub⟩ km kr r s

/-- `ROUND.SUB.ADD.XOR`: F = ((v0 − v1) + v2) xor v3 (41 R87). -/
def execRoundSubAddXor (km : Word) (kr : BitVec 5) (r : Word) (s : State) :
    Host.Outcome State Fault Refusal :=
  answerRound (.roundSubAddXor km kr r) ⟨.sub, .add, .xor⟩ km kr r s

/-- `ROUND.SUB.SUB.ADD`: F = ((v0 − v1) − v2) + v3 (41 R88). -/
def execRoundSubSubAdd (km : Word) (kr : BitVec 5) (r : Word) (s : State) :
    Host.Outcome State Fault Refusal :=
  answerRound (.roundSubSubAdd km kr r) ⟨.sub, .sub, .add⟩ km kr r s

/-- `ROUND.SUB.SUB.SUB`: F = ((v0 − v1) − v2) − v3 (41 R89). -/
def execRoundSubSubSub (km : Word) (kr : BitVec 5) (r : Word) (s : State) :
    Host.Outcome State Fault Refusal :=
  answerRound (.roundSubSubSub km kr r) ⟨.sub, .sub, .sub⟩ km kr r s

/-- `ROUND.SUB.SUB.XOR`: F = ((v0 − v1) − v2) xor v3 (41 R90). -/
def execRoundSubSubXor (km : Word) (kr : BitVec 5) (r : Word) (s : State) :
    Host.Outcome State Fault Refusal :=
  answerRound (.roundSubSubXor km kr r) ⟨.sub, .sub, .xor⟩ km kr r s

/-- `ROUND.SUB.XOR.ADD`: F = ((v0 − v1) xor v2) + v3 (41 R91). -/
def execRoundSubXorAdd (km : Word) (kr : BitVec 5) (r : Word) (s : State) :
    Host.Outcome State Fault Refusal :=
  answerRound (.roundSubXorAdd km kr r) ⟨.sub, .xor, .add⟩ km kr r s

/-- `ROUND.SUB.XOR.SUB`: F = ((v0 − v1) xor v2) − v3 (41 R92). -/
def execRoundSubXorSub (km : Word) (kr : BitVec 5) (r : Word) (s : State) :
    Host.Outcome State Fault Refusal :=
  answerRound (.roundSubXorSub km kr r) ⟨.sub, .xor, .sub⟩ km kr r s

/-- `ROUND.SUB.XOR.XOR`: F = ((v0 − v1) xor v2) xor v3 (41 R93). -/
def execRoundSubXorXor (km : Word) (kr : BitVec 5) (r : Word) (s : State) :
    Host.Outcome State Fault Refusal :=
  answerRound (.roundSubXorXor km kr r) ⟨.sub, .xor, .xor⟩ km kr r s

/-- `ROUND.XOR.ADD.ADD`: F = ((v0 xor v1) + v2) + v3 (41 R94). -/
def execRoundXorAddAdd (km : Word) (kr : BitVec 5) (r : Word) (s : State) :
    Host.Outcome State Fault Refusal :=
  answerRound (.roundXorAddAdd km kr r) ⟨.xor, .add, .add⟩ km kr r s

/-- `ROUND.XOR.ADD.SUB`: F = ((v0 xor v1) + v2) − v3 (41 R95). -/
def execRoundXorAddSub (km : Word) (kr : BitVec 5) (r : Word) (s : State) :
    Host.Outcome State Fault Refusal :=
  answerRound (.roundXorAddSub km kr r) ⟨.xor, .add, .sub⟩ km kr r s

/-- `ROUND.XOR.ADD.XOR`: F = ((v0 xor v1) + v2) xor v3 (41 R96). -/
def execRoundXorAddXor (km : Word) (kr : BitVec 5) (r : Word) (s : State) :
    Host.Outcome State Fault Refusal :=
  answerRound (.roundXorAddXor km kr r) ⟨.xor, .add, .xor⟩ km kr r s

/-- `ROUND.XOR.SUB.ADD`: F = ((v0 xor v1) − v2) + v3 (41 R97). -/
def execRoundXorSubAdd (km : Word) (kr : BitVec 5) (r : Word) (s : State) :
    Host.Outcome State Fault Refusal :=
  answerRound (.roundXorSubAdd km kr r) ⟨.xor, .sub, .add⟩ km kr r s

/-- `ROUND.XOR.SUB.SUB`: F = ((v0 xor v1) − v2) − v3 (41 R98). -/
def execRoundXorSubSub (km : Word) (kr : BitVec 5) (r : Word) (s : State) :
    Host.Outcome State Fault Refusal :=
  answerRound (.roundXorSubSub km kr r) ⟨.xor, .sub, .sub⟩ km kr r s

/-- `ROUND.XOR.SUB.XOR`: F = ((v0 xor v1) − v2) xor v3 (41 R99). -/
def execRoundXorSubXor (km : Word) (kr : BitVec 5) (r : Word) (s : State) :
    Host.Outcome State Fault Refusal :=
  answerRound (.roundXorSubXor km kr r) ⟨.xor, .sub, .xor⟩ km kr r s

/-- `ROUND.XOR.XOR.ADD`: F = ((v0 xor v1) xor v2) + v3 (41 R100). -/
def execRoundXorXorAdd (km : Word) (kr : BitVec 5) (r : Word) (s : State) :
    Host.Outcome State Fault Refusal :=
  answerRound (.roundXorXorAdd km kr r) ⟨.xor, .xor, .add⟩ km kr r s

/-- `ROUND.XOR.XOR.SUB`: F = ((v0 xor v1) xor v2) − v3 (41 R101). -/
def execRoundXorXorSub (km : Word) (kr : BitVec 5) (r : Word) (s : State) :
    Host.Outcome State Fault Refusal :=
  answerRound (.roundXorXorSub km kr r) ⟨.xor, .xor, .sub⟩ km kr r s

/-- `ROUND.XOR.XOR.XOR`: F = ((v0 xor v1) xor v2) xor v3 (41 R102). -/
def execRoundXorXorXor (km : Word) (kr : BitVec 5) (r : Word) (s : State) :
    Host.Outcome State Fault Refusal :=
  answerRound (.roundXorXorXor km kr r) ⟨.xor, .xor, .xor⟩ km kr r s

end Sys2Proof.Machine
end

