-- ==== Sys2Proof/Machine/TableRead.lean ====
section
/-! DEFINITION. The table-read operation `SBOX.RD` (40 R60, R61). -/

namespace Sys2Proof.Machine

/-- `SBOX.RD t, i`: `RSP.Q <- Rom(t, i)`, for all eight tables; no state of the core written, no
exception (40 R60). -/
def execSboxRd (t : BitVec 3) (i : BitVec 8) (s : State) : Host.Outcome State Fault Refusal :=
  .next (s.deliver (.sboxRd t i) (.q (romRead s.rom t i)))

end Sys2Proof.Machine
end

