-- ==== Sys2Proof/Machine/Dispatch.lean ====
section
/-! DEFINITION. One arm per operation of the opcode table (30_encoding R52), each one direct call of
its meaning. -/

namespace Sys2Proof.Machine

def exec (i : Instr) (s : State) : Host.Outcome State Fault Refusal :=
  match i with
  | .sboxRd t x => Sys2Proof.Machine.execSboxRd t x s
  | .roundAddAddAdd km kr r => Sys2Proof.Machine.execRoundAddAddAdd km kr r s
  | .roundAddAddSub km kr r => Sys2Proof.Machine.execRoundAddAddSub km kr r s
  | .roundAddAddXor km kr r => Sys2Proof.Machine.execRoundAddAddXor km kr r s
  | .roundAddSubAdd km kr r => Sys2Proof.Machine.execRoundAddSubAdd km kr r s
  | .roundAddSubSub km kr r => Sys2Proof.Machine.execRoundAddSubSub km kr r s
  | .roundAddSubXor km kr r => Sys2Proof.Machine.execRoundAddSubXor km kr r s
  | .roundAddXorAdd km kr r => Sys2Proof.Machine.execRoundAddXorAdd km kr r s
  | .roundAddXorSub km kr r => Sys2Proof.Machine.execRoundAddXorSub km kr r s
  | .roundAddXorXor km kr r => Sys2Proof.Machine.execRoundAddXorXor km kr r s
  | .roundSubAddAdd km kr r => Sys2Proof.Machine.execRoundSubAddAdd km kr r s
  | .roundSubAddSub km kr r => Sys2Proof.Machine.execRoundSubAddSub km kr r s
  | .roundSubAddXor km kr r => Sys2Proof.Machine.execRoundSubAddXor km kr r s
  | .roundSubSubAdd km kr r => Sys2Proof.Machine.execRoundSubSubAdd km kr r s
  | .roundSubSubSub km kr r => Sys2Proof.Machine.execRoundSubSubSub km kr r s
  | .roundSubSubXor km kr r => Sys2Proof.Machine.execRoundSubSubXor km kr r s
  | .roundSubXorAdd km kr r => Sys2Proof.Machine.execRoundSubXorAdd km kr r s
  | .roundSubXorSub km kr r => Sys2Proof.Machine.execRoundSubXorSub km kr r s
  | .roundSubXorXor km kr r => Sys2Proof.Machine.execRoundSubXorXor km kr r s
  | .roundXorAddAdd km kr r => Sys2Proof.Machine.execRoundXorAddAdd km kr r s
  | .roundXorAddSub km kr r => Sys2Proof.Machine.execRoundXorAddSub km kr r s
  | .roundXorAddXor km kr r => Sys2Proof.Machine.execRoundXorAddXor km kr r s
  | .roundXorSubAdd km kr r => Sys2Proof.Machine.execRoundXorSubAdd km kr r s
  | .roundXorSubSub km kr r => Sys2Proof.Machine.execRoundXorSubSub km kr r s
  | .roundXorSubXor km kr r => Sys2Proof.Machine.execRoundXorSubXor km kr r s
  | .roundXorXorAdd km kr r => Sys2Proof.Machine.execRoundXorXorAdd km kr r s
  | .roundXorXorSub km kr r => Sys2Proof.Machine.execRoundXorXorSub km kr r s
  | .roundXorXorXor km kr r => Sys2Proof.Machine.execRoundXorXorXor km kr r s

end Sys2Proof.Machine
end

