-- ==== Sys2Proof/Machine/Ports.lean ====
section
/-! DEFINITION. The edge of the core: what the host does at its two ports and its reset input (30_encoding
R44, 70 R114, R115, R122), and which request in flight is served next. -/

namespace Sys2Proof.Machine

/-- The host presents a request. None is accepted while reset is asserted (70 R115); otherwise it
joins the requests in flight, whatever they are (60 R112). -/
def State.present (s : State) (q : PortWord) : State :=
  if s.resetAsserted then s else { s with inFlight := s.inFlight ++ [q] }

/-- Any request in progress is abandoned and produces no response (70 R114 (a)). -/
def State.abandon (s : State) : State := { s with inFlight := [] }

/-- The host asserts reset: what is in flight is abandoned, the ROM is untouched (70 R114). -/
def State.assertReset (s : State) : State := { s.abandon with resetAsserted := true }

/-- The host releases reset (70 R114, R115). -/
def State.releaseReset (s : State) : State := { s with resetAsserted := false }

/-- The place among the requests in flight of the one served next: a free choice where there is more
than one (93 U9). Log entry 3. -/
def State.chosen (s : State) : Nat :=
  if s.inFlight.length ≤ 1 then 0
  else Config.arbiter s.arbiterTick % s.inFlight.length

/-- The chosen request leaves the requests in flight and the arbiter's counter advances. -/
def State.retire (s : State) : State :=
  { s with inFlight := s.inFlight.eraseIdx s.chosen, arbiterTick := s.arbiterTick + 1 }

/-- The request served next and the state it leaves, none when nothing is in flight. -/
def State.fetch (s : State) : Option (PortWord × State) :=
  match s.inFlight[s.chosen]? with
  | none => none
  | some q => some (q, s.retire)

/-- The refusal of a request that decodes to no instruction (30_encoding R53, 60 R105). -/
def refusalOf : DecodeError → Refusal
  | .reservedOpsel opsel => .reservedOpsel opsel

end Sys2Proof.Machine
end

