-- ==== Sys2Proof/Machine/Step.lean ====
section
/-! DEFINITION. One step: while reset is asserted nothing is served; otherwise one request in flight is
decoded and answered; with nothing in flight nothing happens (00_scope R13, 70 R114, R126). -/

namespace Sys2Proof.Machine

/-- One step of the core. Log entries 3, 5, 6, 18. -/
def step (s : State) : Host.Outcome State Fault Refusal :=
  if s.resetAsserted then .next s.abandon
  else
    match s.fetch with
    | none => .next s
    | some (q, t) =>
      match decode q with
      | .ok i => exec i t
      | .error e => .refused (refusalOf e)

/-- `s` with the request of an opcode-table number the one request in flight and reset released, so
that the next step serves it. Log entry 11. -/
def State.withFetchWord (s : State) (nbits w : Nat) : State :=
  { s with
    resetAsserted := false
    inFlight := (portWordOfTable nbits w).toList }

end Sys2Proof.Machine
end

