-- ==== Sys2Proof/Machine/Asm.lean ====
section
/-! DEFINITION. The assembler syntax (30_encoding R56, R57, R58): request lines and driver lines as data,
their reading from text, their writing, and the instruction a request line stands for. Log entry 16. -/

namespace Sys2Proof.Machine

/-- The name of a driver variable. -/
abbrev VarName := List Char

/-- An operand of a request line: a number, or the name of a driver variable (30_encoding R56). -/
inductive Operand where
  | lit (n : Nat)
  | var (x : VarName)
  deriving DecidableEq, Repr

/-- The right side of a driver line: the primitives of 00_scope R8 and `mod` (30_encoding R58). -/
inductive Expr where
  | lit (w : Word)
  | var (x : VarName)
  | add32 (a b : Expr)
  | sub32 (a b : Expr)
  | xor32 (a b : Expr)
  | mod (a : Expr) (n : Nat)
  deriving DecidableEq, Repr

/-- A line: a `ROUND` request (30_encoding R56), an `SBOX.RD` request (R57), or a driver line, one
assignment or a simultaneous one (R58). -/
inductive Line where
  | round (dst : VarName) (ops : OpTriple) (km kr r : Operand)
  | sboxRd (dst : VarName) (t i : Operand)
  | drv (dsts : List VarName) (srcs : List Expr)
  deriving DecidableEq, Repr

/-! ### Numbers in text -/

/-- The value of a decimal digit. -/
def decDigit (c : Char) : Option Nat :=
  if '0' ≤ c ∧ c ≤ '9' then some (c.toNat - 48) else none

/-- The value of a hexadecimal digit. -/
def hexDigit (c : Char) : Option Nat :=
  if '0' ≤ c ∧ c ≤ '9' then some (c.toNat - 48)
  else if 'A' ≤ c ∧ c ≤ 'F' then some (c.toNat - 55)
  else if 'a' ≤ c ∧ c ≤ 'f' then some (c.toNat - 87)
  else none

/-- The number that digits write in a base, the first digit the highest; `acc` is what stands before
them. -/
def readDigits (digit : Char → Option Nat) (base : Nat) : Nat → List Char → Option Nat
  | acc, [] => some acc
  | acc, c :: cs =>
    match digit c with
    | none => none
    | some d => readDigits digit base (acc * base + d) cs

/-- A decimal number. -/
def readDec : List Char → Option Nat
  | [] => none
  | cs => readDigits decDigit 10 0 cs

/-- `0x` and exactly `k` hexadecimal digits. -/
def readHex (k : Nat) : List Char → Option Nat
  | '0' :: 'x' :: cs => if cs.length = k then readDigits hexDigit 16 0 cs else none
  | _ => none

/-- A word that begins with a digit is a number and never a variable. -/
def isNumeral : List Char → Bool
  | [] => false
  | c :: _ => (decDigit c).isSome

/-- An operand in text: a number that `read` accepts, below `bound`, or a variable's name. -/
def readOperand (read : List Char → Option Nat) (bound : Nat) (w : List Char) : Option Operand :=
  if isNumeral w then
    match read w with
    | some n => if n < bound then some (.lit n) else none
    | none => none
  else some (.var w)

/-- `<km>` and `<r>`: `0x` and eight hexadecimal digits (30_encoding R56). -/
def readWordOperand : List Char → Option Operand := readOperand (readHex 8) (2 ^ 32)

/-- `<kr>`: a decimal number 0 … 31 (30_encoding R56). -/
def readRotOperand : List Char → Option Operand := readOperand readDec 32

/-- `<t>`: a decimal table number 0 … 7 (30_encoding R57). -/
def readTableOperand : List Char → Option Operand := readOperand readDec 8

/-- `<i>`: an index 0 … 255, decimal or `0x` and two hexadecimal digits (30_encoding R57). -/
def readIndexOperand : List Char → Option Operand :=
  readOperand (fun w => (readHex 2 w).orElse fun _ => readDec w) 256

/-! ### Reading a line -/

/-- The tokens of a line. -/
inductive Token where
  | word (w : List Char)
  | arrow
  | comma
  | dot
  | lpar
  | rpar
  deriving DecidableEq, Repr

/-- A character of a name, mnemonic or number. -/
def isWordChar (c : Char) : Bool := c.isAlphanum || c == '_' || c == '\''

/-- Puts the word read so far, held reversed, before the tokens that follow it. -/
def endWord (acc : List Char) (ts : List Token) : List Token :=
  if acc.isEmpty then ts else .word acc.reverse :: ts

/-- The tokens of a text, `acc` being the word under way, reversed; none at a character that no line
holds. -/
def tokens : List Char → List Char → Option (List Token)
  | [], acc => some (endWord acc [])
  | '<' :: '-' :: cs, acc => (tokens cs []).map fun ts => endWord acc (.arrow :: ts)
  | c :: cs, acc =>
    if isWordChar c then tokens cs (c :: acc)
    else
      (tokens cs []).bind fun ts =>
        if c = ' ' then some (endWord acc ts)
        else if c = ',' then some (endWord acc (.comma :: ts))
        else if c = '.' then some (endWord acc (.dot :: ts))
        else if c = '(' then some (endWord acc (.lpar :: ts))
        else if c = ')' then some (endWord acc (.rpar :: ts))
        else none

/-- The spelling of an operator in a mnemonic (30_encoding R56). -/
def Op.name : Op → List Char
  | .add => ['A', 'D', 'D']
  | .sub => ['S', 'U', 'B']
  | .xor => ['X', 'O', 'R']

/-- The operator a word of a mnemonic spells. -/
def readOp (w : List Char) : Option Op :=
  if w = Op.name .add then some .add
  else if w = Op.name .sub then some .sub
  else if w = Op.name .xor then some .xor
  else none

/-- A literal of a driver line: decimal, or `0x` and eight hexadecimal digits. -/
def readDrvNumber (w : List Char) : Option Nat := (readHex 8 w).orElse fun _ => readDec w

/-- A driver primitive by its name (30_encoding R58). -/
def readPrim (w : List Char) : Option (Expr → Expr → Expr) :=
  if w = ['a', 'd', 'd', '3', '2'] then some .add32
  else if w = ['s', 'u', 'b', '3', '2'] then some .sub32
  else if w = ['x', 'o', 'r', '3', '2'] then some .xor32
  else none

/-- The suffix `mod <n>` of an expression, where it stands. -/
def readMod (e : Expr) : List Token → Option (Expr × List Token)
  | .word ['m', 'o', 'd'] :: .word n :: ts => (readDec n).map fun k => (.mod e k, ts)
  | ts => some (e, ts)

/-- An expression at the head of the tokens and the tokens after it; the first argument bounds the
depth of nesting. -/
def readExpr : Nat → List Token → Option (Expr × List Token)
  | 0, _ => none
  | depth + 1, .word f :: .lpar :: ts =>
    (readPrim f).bind fun mk =>
      (readExpr depth ts).bind fun p =>
        match p.2 with
        | .comma :: ts' =>
          (readExpr depth ts').bind fun q =>
            match q.2 with
            | .rpar :: ts'' => readMod (mk p.1 q.1) ts''
            | _ => none
        | _ => none
  | _ + 1, .word x :: ts =>
    if isNumeral x then
      (readDrvNumber x).bind fun n =>
        if n < 2 ^ 32 then readMod (.lit (BitVec.ofNat 32 n)) ts else none
    else readMod (.var x) ts
  | _ + 1, _ => none

/-- The names of a simultaneous assignment, up to the closing parenthesis. -/
def readNames : List Token → Option (List VarName × List Token)
  | .word x :: .rpar :: ts => if isNumeral x then none else some ([x], ts)
  | .word x :: .comma :: ts =>
    if isNumeral x then none else (readNames ts).map fun p => (x :: p.1, p.2)
  | _ => none

/-- The expressions of a simultaneous assignment, up to the closing parenthesis that ends the line; the
first argument bounds their number, `depth` their nesting. -/
def readExprs (depth : Nat) : Nat → List Token → Option (List Expr)
  | 0, _ => none
  | n + 1, ts =>
    (readExpr depth ts).bind fun p =>
      match p.2 with
      | [.rpar] => some [p.1]
      | .comma :: ts' => (readExprs depth n ts').map fun es => p.1 :: es
      | _ => none

/-- A driver line after its prefix `drv` (30_encoding R58). -/
def readDrv (ts : List Token) : Option Line :=
  match ts with
  | .lpar :: rest =>
    (readNames rest).bind fun p =>
      match p.2 with
      | .arrow :: .lpar :: ts' =>
        (readExprs ts'.length ts'.length ts').bind fun es =>
          if es.length = p.1.length then some (.drv p.1 es) else none
      | _ => none
  | .word x :: .arrow :: ts' =>
    (readExpr ts'.length ts').bind fun p =>
      if p.2 = [] ∧ isNumeral x = false then some (.drv [x] [p.1]) else none
  | _ => none

/-- A line of tokens (30_encoding R56, R57, R58). -/
def readTokens : List Token → Option Line
  | [.word d, .arrow, .word m, .dot, .word a, .dot, .word b, .dot, .word c,
      .word km, .comma, .word kr, .comma, .word r] =>
    if m = ['R', 'O', 'U', 'N', 'D'] ∧ isNumeral d = false then
      match readOp a, readOp b, readOp c, readWordOperand km, readRotOperand kr,
          readWordOperand r with
      | some a, some b, some c, some km, some kr, some r => some (.round d ⟨a, b, c⟩ km kr r)
      | _, _, _, _, _, _ => none
    else none
  | [.word d, .arrow, .word m, .dot, .word rd, .word t, .comma, .word i] =>
    if m = ['S', 'B', 'O', 'X'] ∧ rd = ['R', 'D'] ∧ isNumeral d = false then
      match readTableOperand t, readIndexOperand i with
      | some t, some i => some (.sboxRd d t i)
      | _, _ => none
    else none
  | .word ['d', 'r', 'v'] :: ts => readDrv ts
  | _ => none

/-- A line of text (30_encoding R56, R57, R58). -/
def readLine (text : List Char) : Option Line := (tokens text []).bind readTokens

/-! ### Writing a request line -/

/-- The hexadecimal digit of a value below 16. -/
def hexChar (d : Nat) : Char := if d < 10 then Char.ofNat (48 + d) else Char.ofNat (55 + d)

/-- The lowest `k` hexadecimal digits of a number, the highest first. -/
def hexChars : Nat → Nat → List Char
  | 0, _ => []
  | k + 1, n => hexChars k (n / 16) ++ [hexChar (n % 16)]

/-- `0x` and the lowest `k` hexadecimal digits. -/
def writeHex (k n : Nat) : List Char := '0' :: 'x' :: hexChars k n

/-- A number below 100 in decimal. -/
def writeDec (n : Nat) : List Char :=
  if n < 10 then [Char.ofNat (48 + n)] else [Char.ofNat (48 + n / 10), Char.ofNat (48 + n % 10)]

/-- The mnemonic of an operation, as the opcode map spells it (30_encoding R52). -/
def writeMnemonic (i : Instr) : List Char :=
  match i.ask with
  | .table _ _ => ['S', 'B', 'O', 'X', '.', 'R', 'D']
  | .transform ops _ _ _ =>
    ['R', 'O', 'U', 'N', 'D', '.'] ++ Op.name ops.a ++ ['.'] ++ Op.name ops.b ++ ['.']
      ++ Op.name ops.c

/-- The request line of an instruction whose response goes to `dst` (30_encoding R56, R57). -/
def writeRequest (dst : VarName) (i : Instr) : List Char :=
  dst ++ [' ', '<', '-', ' '] ++ writeMnemonic i ++ [' '] ++
    match i.ask with
    | .table t x => writeDec t.toNat ++ [',', ' '] ++ writeHex 2 x.toNat
    | .transform _ km kr r =>
      writeHex 8 km.toNat ++ [',', ' '] ++ writeDec kr.toNat ++ [',', ' '] ++ writeHex 8 r.toNat

/-! ### What a line stands for -/

/-- The driver's variables and their values; a name not listed has none. -/
abbrev Env := List (VarName × Word)

/-- The value of a driver variable. -/
def Env.get : Env → VarName → Option Word
  | [], _ => none
  | (y, w) :: rest, x => if y = x then some w else Env.get rest x

/-- Assigns a driver variable. -/
def Env.set (env : Env) (x : VarName) (w : Word) : Env := (x, w) :: env.filter (fun p => p.1 ≠ x)

/-- Simultaneous assignment: all values are known before the first is assigned (30_encoding R58). -/
def Env.setAll (env : Env) : List VarName → List Word → Env
  | x :: xs, w :: ws => Env.setAll (env.set x w) xs ws
  | _, _ => env

/-- The value an operand presents to a field of `width` bits: none if it has no value or does not fit
the field (30_encoding R45: a value out of range cannot be presented). -/
def Operand.value (width : Nat) (env : Env) (o : Operand) : Option (BitVec width) :=
  match o with
  | .lit n => if n < 2 ^ width then some (BitVec.ofNat width n) else none
  | .var x =>
    match Env.get env x with
    | some w => if w.toNat < 2 ^ width then some (BitVec.ofNat width w.toNat) else none
    | none => none

/-- The value of an expression (30_encoding R58); `mod 0` has none. -/
def Expr.value (env : Env) : Expr → Option Word
  | .lit w => some w
  | .var x => Env.get env x
  | .add32 a b =>
    match Expr.value env a, Expr.value env b with
    | some v, some w => some (Machine.add32 v w)
    | _, _ => none
  | .sub32 a b =>
    match Expr.value env a, Expr.value env b with
    | some v, some w => some (Machine.sub32 v w)
    | _, _ => none
  | .xor32 a b =>
    match Expr.value env a, Expr.value env b with
    | some v, some w => some (Machine.xor32 v w)
    | _, _ => none
  | .mod a n =>
    match Expr.value env a with
    | some v => if n = 0 then none else some (BitVec.ofNat 32 (v.toNat % n))
    | none => none

/-- The values of a list of expressions. -/
def Expr.values (env : Env) : List Expr → Option (List Word)
  | [] => some []
  | e :: es =>
    match Expr.value env e, Expr.values env es with
    | some w, some ws => some (w :: ws)
    | _, _ => none

/-- The instruction of a request line under the driver's variables (30_encoding R56, R57); none for a
driver line, and none where an operand cannot be presented. -/
def Line.request (env : Env) : Line → Option Instr
  | .round _ ops km kr r =>
    match km.value 32 env, kr.value 5 env, r.value 32 env with
    | some km, some kr, some r => some (Instr.round ops km kr r)
    | _, _, _ => none
  | .sboxRd _ t i =>
    match t.value 3 env, i.value 8 env with
    | some t, some i => some (.sboxRd t i)
    | _, _ => none
  | .drv _ _ => none

end Sys2Proof.Machine
end

