-- ==== Sys2Proof/Machine/Driver.lean ====
section
/-! DEFINITION. The host's side (00_scope R13 (c), 70 R117 to R121): one request put to the core, one
round of the cipher driver, sixteen rounds forward and back, and the running of request and driver
lines (30_encoding R58). The block halves are the driver's and no state of the core (10_state R21).
Log entries 14 and 19. -/

namespace Sys2Proof.Machine

/-- The driver's two registers (10_state R21). -/
structure Halves where
  l : Word
  r : Word
  deriving DecidableEq, Repr

/-- The subkey of a round: additive key and rotation amount (70 R121). -/
structure Subkey where
  km : Word
  kr : BitVec 5
  deriving DecidableEq, Repr

/-- The driver reduces a wider rotation amount modulo 32 before it forms the request (70 R120). -/
def subkeyOf (km : Word) (amount : Nat) : Subkey := ⟨km, BitVec.ofNat 5 (amount % 32)⟩

/-- The host presents one request and takes the response of the next step, if that step answers it. -/
def ask (i : Instr) (s : State) : Option (Response × State) :=
  match step (s.present (encode i)) with
  | .next t =>
    match t.answers.drop s.answers.length with
    | [a] => if a.request = i then some (a.response, t) else none
    | _ => none
  | .fault _ => none
  | .refused _ => none

/-- The word of a response. -/
def Response.word : Response → Word
  | .f w => w
  | .q w => w

/-- One round forward: `F <- ROUND.<ops> KM, KR, R;  (L, R) <- (R, xor32(L, F))` (70 R117, R118). -/
def roundForward (ops : OpTriple) (k : Subkey) (h : Halves) (s : State) : Option (Halves × State) :=
  (ask (Instr.round ops k.km k.kr h.r) s).map fun p => (⟨h.r, xor32 h.l p.1.word⟩, p.2)

/-- One round back: `F <- ROUND.<ops> KM, KR, L;  (L, R) <- (xor32(R, F), L)` (95 program P4). -/
def roundBackward (ops : OpTriple) (k : Subkey) (h : Halves) (s : State) : Option (Halves × State) :=
  (ask (Instr.round ops k.km k.kr h.l) s).map fun p => (⟨xor32 h.r p.1.word, h.l⟩, p.2)

/-- Rounds forward, first to last. Every round swaps the halves, the last one too: DESIGN CHOICE, the spec
leaves the swap after the last round open (70 R118, 91 N9). Log entry 19. -/
def roundsForward : List (OpTriple × Subkey) → Halves → State → Option (Halves × State)
  | [], h, s => some (h, s)
  | (ops, k) :: rest, h, s =>
    (roundForward ops k h s).bind fun p => roundsForward rest p.1 p.2

/-- Rounds back, last to first: the order of 95 program P4, DEDUCED there, since the source gives none
(91 N9). It undoes the swap after the last round first. Log entries 14 and 19. -/
def roundsBackward : List (OpTriple × Subkey) → Halves → State → Option (Halves × State)
  | [], h, s => some (h, s)
  | (ops, k) :: rest, h, s =>
    (roundsBackward rest h s).bind fun p => roundBackward ops k p.1 p.2

/-- The triple of round `n`: round type `(n mod 3) + 1` (70 R119). -/
def tripleOfRound (v : RoundTypes) (n : Nat) : OpTriple :=
  if n % 3 = 0 then v.type1 else if n % 3 = 1 then v.type2 else v.type3

/-- The rounds of one block: round `n` has the triple of its type and the `n`th subkey of the key
schedule (70 R119, R121). -/
def schedule (v : RoundTypes) (key : Nat → Subkey) : List (OpTriple × Subkey) :=
  (List.range Config.nRounds).map fun n => (tripleOfRound v n, key n)

/-- One line: a request line puts its request to the core and binds the response; a driver line assigns
driver variables and leaves the core alone (30_encoding R56, R57, R58). -/
def runLine (line : Line) (env : Env) (s : State) : Option (Env × State) :=
  match line with
  | .drv dsts srcs =>
    if dsts.length = srcs.length then
      (Expr.values env srcs).map fun ws => (Env.setAll env dsts ws, s)
    else none
  | .round d _ _ _ _ =>
    (line.request env).bind fun i => (ask i s).map fun p => (env.set d p.1.word, p.2)
  | .sboxRd d _ _ =>
    (line.request env).bind fun i => (ask i s).map fun p => (env.set d p.1.word, p.2)

/-- Lines in order. -/
def runLines : List Line → Env → State → Option (Env × State)
  | [], env, s => some (env, s)
  | line :: rest, env, s => (runLine line env s).bind fun p => runLines rest p.1 p.2

end Sys2Proof.Machine
end

