-- ==== Sys2Proof/Safety.lean ====
section
/-! DEFINITION. The terms claims use: the response a request has, the initialization barrier, what
can happen to the core, and the invariant of the machine. -/

namespace Sys2Proof

open Machine

/-- The response to a request, a function of the table ROM and the request alone (30_encoding R59). -/
def response (m : Rom) (i : Instr) : Response :=
  match i.ask with
  | .table t x => .q (romRead m t x)
  | .transform ops km kr r => .f (roundF laneMap ops m km kr r)

/-- `INIT_DONE`: every word of the ROM is in place (20_memory R39, 70 R115). -/
def InitDone (s : State) : Prop := ∀ t i, romRead s.rom t i = Config.sboxRom t i

/-- The core is ready for a request and has none in flight. -/
def Idle (s : State) : Prop := s.resetAsserted = false ∧ s.inFlight = []

/-- What can happen to the core between two moments: a step of its own, or something the host does at a
port or at the reset input (70 R122). -/
inductive Event
  | step
  | present (q : PortWord)
  | assertReset
  | releaseReset
  deriving DecidableEq, Repr

/-- The state an event leads to, none where a step does not go on. -/
def afterEvent : Event → State → Option State
  | .step, s =>
    match Machine.step s with
    | .next t => some t
    | .fault _ => none
    | .refused _ => none
  | .present q, s => some (s.present q)
  | .assertReset, s => some s.assertReset
  | .releaseReset, s => some s.releaseReset

/-- The state a history of events leads to, first event first. -/
def afterEvents : List Event → State → Option State
  | [], s => some s
  | e :: rest, s => (afterEvent e s).bind (afterEvents rest)

/-- Every response delivered is the one its request has under the ROM (30_encoding R59, 10_state R25). -/
def AnswersRight (s : State) : Prop := ∀ a ∈ s.answers, a.response = response s.rom a.request

/-- The invariant: the ROM is canonical, nothing is in flight while reset is asserted (70 R114, R115),
and every response delivered is right. -/
structure Inv (s : State) : Prop where
  rom_wf : s.rom.wf = true
  reset_empty : s.resetAsserted = true → s.inFlight = []
  answers_right : AnswersRight s

end Sys2Proof
end

