-- ==== Sys2Proof/Certificates/Slice0/Obligations.lean ====
section
/-! DEFINITION. The statements for the provers. The arithmetic of the rules is written again here on
natural numbers, as 00_scope R7 to R11 give it, so that a statement about a result does not rest on
the model's own operations. -/

namespace Sys2Proof.Spec

open Sys2Proof.Machine

/-- `x[hi:lo]` (00_scope R7). -/
def bitsOf (x hi lo : Nat) : Nat := x / 2 ^ lo % 2 ^ (hi - lo + 1)

/-- `add32` (00_scope R8). -/
def addN (a b : Nat) : Nat := (a + b) % 2 ^ 32

/-- `sub32` (00_scope R8). -/
def subN (a b : Nat) : Nat := if b ≤ a then a - b else a + 2 ^ 32 - b

/-- `xor32`: bit k of the result is 1 when the operands' bits differ (00_scope R8). -/
def xorN (a b : Nat) : Nat := a ^^^ b

/-- `apply` (00_scope R8). -/
def applyN : Op → Nat → Nat → Nat
  | .add => addN
  | .sub => subN
  | .xor => xorN

/-- `rotl32` by the formula, with 0 the identity (00_scope R9). -/
def rotlN (x n : Nat) : Nat := if n = 0 then x else x * 2 ^ n % 2 ^ 32 + x / 2 ^ (32 - n)

/-- `Rom(t, i)` (00_scope R11). -/
def romN (m : Rom) (t i : Nat) : Nat := (romRead m (BitVec.ofNat 3 t) (BitVec.ofNat 8 i)).toNat

/-- The rotated word `u` of a request (41 R63, R64). -/
def rotatedN (km : Word) (kr : BitVec 5) (r : Word) : Nat :=
  rotlN (addN km.toNat r.toNat) kr.toNat

/-- `v0` to `v3` combined by `g`, the lanes and tables as 41 R65 and R66 pair them. -/
def roundN (m : Rom) (g : Nat → Nat → Nat → Nat → Nat) (km : Word) (kr : BitVec 5) (r : Word) : Nat :=
  let u := rotatedN km kr r
  g (romN m 0 (bitsOf u 15 8)) (romN m 1 (bitsOf u 7 0)) (romN m 2 (bitsOf u 31 24))
    (romN m 3 (bitsOf u 23 16))

/-- The code of an operator (30_encoding R49). -/
def codeN : Op → Nat
  | .add => 0
  | .sub => 1
  | .xor => 2

/-- The operator of a code, `op` of 41 R69; the reserved code is never asked for. -/
def opN (c : Nat) : Op := if c = 0 then .add else if c = 1 then .sub else .xor

/-- A slot of this `OPSEL` is `11` (30_encoding R53). -/
def SlotReserved (opsel : Nat) : Prop :=
  bitsOf opsel 5 4 = 3 ∨ bitsOf opsel 3 2 = 3 ∨ bitsOf opsel 1 0 = 3

/-- The 37 reserved values, as 30_encoding R53 lists them. -/
def reservedList : List Nat :=
  [0x03, 0x07, 0x0B, 0x0C, 0x0D, 0x0E, 0x0F, 0x13, 0x17, 0x1B, 0x1C, 0x1D, 0x1E, 0x1F, 0x23, 0x27,
    0x2B, 0x2C, 0x2D, 0x2E, 0x2F] ++ (List.range 16).map (fun n => 0x30 + n)

/-- Instruction `i` answers with `v` and changes nothing else. -/
def AnswersWith (i : Instr) (s : State) (v : Response) : Prop :=
  exec i s = .next { s with answers := s.answers ++ [⟨i, v⟩] }

/-- A `ROUND` operation: this `OPSEL` decodes to `mk`, whatever the other fields, and in every state `mk`
answers with the four table words combined by `g`. -/
def RoundDoes (opsel : BitVec 6) (mk : Word → BitVec 5 → Word → Instr)
    (g : Nat → Nat → Nat → Nat → Nat) : Prop :=
  ∀ km kr r s, decode (.rnd (packRnd opsel kr km r)) = .ok (mk km kr r) ∧
    ∃ w : Word, AnswersWith (mk km kr r) s (.f w) ∧ w.toNat = roundN s.rom g km kr r

/-- The host asks one request after another. -/
def askAll : List Instr → State → Option State
  | [], s => some s
  | i :: is, s => (ask i s).bind fun p => askAll is p.2

/-- The value of a chain of ADD and SUB as a signed sum. -/
def signedN (op : Op) (v : Nat) : Int := if op = .sub then -(v : Int) else v

/-- A name that can stand for a driver variable in a line of text: the model's choice, log entry 16. -/
def NameInText (x : VarName) : Prop := x ≠ [] ∧ isNumeral x = false ∧ ∀ c ∈ x, isWordChar c = true

end Sys2Proof.Spec

open Sys2Proof Sys2Proof.Machine Sys2Proof.Spec

/-! ### The step and the decoder -/

/-- 00_scope R13, 30 R59: with reset released, a step takes the chosen request out of those in flight and
runs the instruction it decodes to; the choice is one of the requests in flight. -/
def Obligations.StepServesChosenRequest : Prop :=
  (∀ s : State, s.inFlight ≠ [] → s.chosen < s.inFlight.length) ∧
  ∀ (s : State) (q : PortWord) (i : Instr), s.resetAsserted = false →
    s.inFlight[s.chosen]? = some q → decode q = .ok i →
    step s = exec i { s with
      inFlight := s.inFlight.eraseIdx s.chosen
      arbiterTick := s.arbiterTick + 1 }

/-- 60 R105: a `ROUND` request with a slot `11` is refused, with a mark that names its `OPSEL`. -/
def Obligations.StepRefusesReservedOpsel : Prop :=
  ∀ (s : State) (opsel : BitVec 6) (kr : BitVec 5) (km r : Word), SlotReserved opsel.toNat →
    s.resetAsserted = false → s.inFlight[s.chosen]? = some (.rnd (packRnd opsel kr km r)) →
    step s = .refused (.reservedOpsel opsel)

/-- 30 R53: the reserved `OPSEL` values are the 37 listed, whatever the other fields hold; every other
`REQ` and every `TREQ` is an instruction. -/
def Obligations.ReservedOpselsAreTheListed : Prop :=
  reservedList.length = 37 ∧
  (∀ (opsel : BitVec 6) (kr : BitVec 5) (km r : Word),
    if opsel.toNat ∈ reservedList then
      SlotReserved opsel.toNat ∧
        decode (.rnd (packRnd opsel kr km r)) = .error (.reservedOpsel opsel)
    else
      ¬ SlotReserved opsel.toNat ∧
        ∃ i : Instr, decode (.rnd (packRnd opsel kr km r)) = .ok i) ∧
  ∀ treq : BitVec 11, ∃ i : Instr, decode (.tbl treq) = .ok i

/-- Every instruction, with every operand at every value, is read back from its request. -/
def Obligations.DecodeOfEncode : Prop := ∀ i : Instr, decode (encode i) = .ok i

/-- No bit of a request is dropped: a request that decodes is the encoding of what it decodes to. -/
def Obligations.EncodeOfDecode : Prop :=
  ∀ (q : PortWord) (i : Instr), decode q = .ok i → encode i = q

/-- 30 R45, R49, 41 R69: the decoder reads `OPSEL`, `KR`, `KM` and `R` at their bit positions, and each
slot of `OPSEL` by its code. -/
def Obligations.RoundRequestFields : Prop :=
  ∀ req : BitVec 75,
    let n := req.toNat
    let opsel := bitsOf n 74 69
    ¬ SlotReserved opsel →
    decode (.rnd req) = .ok (Instr.round
      ⟨opN (bitsOf opsel 5 4), opN (bitsOf opsel 3 2), opN (bitsOf opsel 1 0)⟩
      (BitVec.ofNat 32 (bitsOf n 63 32)) (BitVec.ofNat 5 (bitsOf n 68 64))
      (BitVec.ofNat 32 (bitsOf n 31 0)))

/-- 30 R47: every `TREQ` is a request for table `TREQ[10:8]` at index `TREQ[7:0]`. -/
def Obligations.TableRequestFields : Prop :=
  ∀ treq : BitVec 11, decode (.tbl treq) = .ok (.sboxRd
    (BitVec.ofNat 3 (bitsOf treq.toNat 10 8)) (BitVec.ofNat 8 (bitsOf treq.toNat 7 0)))

/-- 30 R50: `OPSEL = 16·code(OPA) + 4·code(OPB) + code(OPC)`; with R45, the `REQ` of every `ROUND`
operation as one number. -/
def Obligations.OpselAssembly : Prop :=
  ∀ (ops : OpTriple) (km : Word) (kr : BitVec 5) (r : Word),
    ∃ req : BitVec 75, encode (Instr.round ops km kr r) = .rnd req ∧
      req.toNat = (16 * codeN ops.a + 4 * codeN ops.b + codeN ops.c) * 2 ^ 69 + kr.toNat * 2 ^ 64
        + km.toNat * 2 ^ 32 + r.toNat

/-- Request words printed in 95_test_vectors, decoded. -/
def Obligations.PrintedRequestsDecode : Prop :=
  decode (.rnd 0x12B0123456789ABCDEF#75) = .ok (.roundAddXorSub 0x01234567 11 0x89ABCDEF) ∧
  decode (.rnd 0x247DEADBEEF0BADF00D#75) = .ok (.roundSubAddXor 0xDEADBEEF 7 0x0BADF00D) ∧
  decode (.rnd 0x487DEADBEEF0BADF00D#75) = .ok (.roundXorSubAdd 0xDEADBEEF 7 0x0BADF00D) ∧
  decode (.rnd 0x13FFFFFFFFFFFFFFFFF#75) = .ok (.roundAddXorSub 0xFFFFFFFF 31 0xFFFFFFFF) ∧
  decode (.tbl 0x57F#11) = .ok (.sboxRd 5 0x7F) ∧
  decode (.rnd 0x0600000000000000000#75) = .error (.reservedOpsel 0x03)

/-! ### The operations -/

/-- 40 R60: `SBOX.RD t, i` is the request `TREQ = 256·t + i` and returns the word at that address of the
table space, in every state; it writes nothing. -/
def Obligations.SboxRdReturnsTheWord : Prop :=
  ∀ (t : BitVec 3) (i : BitVec 8) (s : State),
    encode (.sboxRd t i) = .tbl (BitVec.ofNat 11 (256 * t.toNat + i.toNat)) ∧
    decode (.tbl (BitVec.ofNat 11 (256 * t.toNat + i.toNat))) = .ok (.sboxRd t i) ∧
    AnswersWith (.sboxRd t i) s
      (.q (romReadAddr s.rom (BitVec.ofNat 11 (256 * t.toNat + i.toNat))))

/-- 41 R76 to R84: the nine operations whose first operator is ADD, each by its own formula. -/
def Obligations.RoundsWithOpaAdd : Prop :=
  RoundDoes 0b000000#6 .roundAddAddAdd
    (fun v0 v1 v2 v3 => addN (addN (addN v0 v1) v2) v3) ∧
  RoundDoes 0b000001#6 .roundAddAddSub
    (fun v0 v1 v2 v3 => subN (addN (addN v0 v1) v2) v3) ∧
  RoundDoes 0b000010#6 .roundAddAddXor
    (fun v0 v1 v2 v3 => xorN (addN (addN v0 v1) v2) v3) ∧
  RoundDoes 0b000100#6 .roundAddSubAdd
    (fun v0 v1 v2 v3 => addN (subN (addN v0 v1) v2) v3) ∧
  RoundDoes 0b000101#6 .roundAddSubSub
    (fun v0 v1 v2 v3 => subN (subN (addN v0 v1) v2) v3) ∧
  RoundDoes 0b000110#6 .roundAddSubXor
    (fun v0 v1 v2 v3 => xorN (subN (addN v0 v1) v2) v3) ∧
  RoundDoes 0b001000#6 .roundAddXorAdd
    (fun v0 v1 v2 v3 => addN (xorN (addN v0 v1) v2) v3) ∧
  RoundDoes 0b001001#6 .roundAddXorSub
    (fun v0 v1 v2 v3 => subN (xorN (addN v0 v1) v2) v3) ∧
  RoundDoes 0b001010#6 .roundAddXorXor
    (fun v0 v1 v2 v3 => xorN (xorN (addN v0 v1) v2) v3)

/-- 41 R85 to R93: the nine operations whose first operator is SUB, each by its own formula. -/
def Obligations.RoundsWithOpaSub : Prop :=
  RoundDoes 0b010000#6 .roundSubAddAdd
    (fun v0 v1 v2 v3 => addN (addN (subN v0 v1) v2) v3) ∧
  RoundDoes 0b010001#6 .roundSubAddSub
    (fun v0 v1 v2 v3 => subN (addN (subN v0 v1) v2) v3) ∧
  RoundDoes 0b010010#6 .roundSubAddXor
    (fun v0 v1 v2 v3 => xorN (addN (subN v0 v1) v2) v3) ∧
  RoundDoes 0b010100#6 .roundSubSubAdd
    (fun v0 v1 v2 v3 => addN (subN (subN v0 v1) v2) v3) ∧
  RoundDoes 0b010101#6 .roundSubSubSub
    (fun v0 v1 v2 v3 => subN (subN (subN v0 v1) v2) v3) ∧
  RoundDoes 0b010110#6 .roundSubSubXor
    (fun v0 v1 v2 v3 => xorN (subN (subN v0 v1) v2) v3) ∧
  RoundDoes 0b011000#6 .roundSubXorAdd
    (fun v0 v1 v2 v3 => addN (xorN (subN v0 v1) v2) v3) ∧
  RoundDoes 0b011001#6 .roundSubXorSub
    (fun v0 v1 v2 v3 => subN (xorN (subN v0 v1) v2) v3) ∧
  RoundDoes 0b011010#6 .roundSubXorXor
    (fun v0 v1 v2 v3 => xorN (xorN (subN v0 v1) v2) v3)

/-- 41 R94 to R102: the nine operations whose first operator is XOR, each by its own formula. -/
def Obligations.RoundsWithOpaXor : Prop :=
  RoundDoes 0b100000#6 .roundXorAddAdd
    (fun v0 v1 v2 v3 => addN (addN (xorN v0 v1) v2) v3) ∧
  RoundDoes 0b100001#6 .roundXorAddSub
    (fun v0 v1 v2 v3 => subN (addN (xorN v0 v1) v2) v3) ∧
  RoundDoes 0b100010#6 .roundXorAddXor
    (fun v0 v1 v2 v3 => xorN (addN (xorN v0 v1) v2) v3) ∧
  RoundDoes 0b100100#6 .roundXorSubAdd
    (fun v0 v1 v2 v3 => addN (subN (xorN v0 v1) v2) v3) ∧
  RoundDoes 0b100101#6 .roundXorSubSub
    (fun v0 v1 v2 v3 => subN (subN (xorN v0 v1) v2) v3) ∧
  RoundDoes 0b100110#6 .roundXorSubXor
    (fun v0 v1 v2 v3 => xorN (subN (xorN v0 v1) v2) v3) ∧
  RoundDoes 0b101000#6 .roundXorXorAdd
    (fun v0 v1 v2 v3 => addN (xorN (xorN v0 v1) v2) v3) ∧
  RoundDoes 0b101001#6 .roundXorXorSub
    (fun v0 v1 v2 v3 => subN (xorN (xorN v0 v1) v2) v3) ∧
  RoundDoes 0b101010#6 .roundXorXorXor
    (fun v0 v1 v2 v3 => xorN (xorN (xorN v0 v1) v2) v3)

/-- 41 R69, R71: one function for all 27 triples. Every `ROUND` request whose `OPSEL` is not reserved is an
instruction, and in every state it answers `ROUNDF` of the operators its slots name. -/
def Obligations.RoundIsOneFunction : Prop :=
  ∀ (opsel : BitVec 6) (kr : BitVec 5) (km r : Word) (s : State), ¬ SlotReserved opsel.toNat →
    ∃ (i : Instr) (w : Word), decode (.rnd (packRnd opsel kr km r)) = .ok i ∧
      AnswersWith i s (.f w) ∧
      w.toNat = roundN s.rom (fun v0 v1 v2 v3 =>
        applyN (opN (bitsOf opsel.toNat 1 0)) (applyN (opN (bitsOf opsel.toNat 3 2))
          (applyN (opN (bitsOf opsel.toNat 5 4)) v0 v1) v2) v3) km kr r

/-- 60 R103, 41 R71, 30 R59: every instruction completes in every state, with one response that is a
function of the request and the ROM. -/
def Obligations.EveryInstructionCompletes : Prop :=
  ∀ (i : Instr) (s : State), AnswersWith i s (response s.rom i)

/-- The frame of all 28 operations: every word of the table space reads as before, and reset, the requests
in flight, the counter and the responses already delivered stay. -/
def Obligations.InstructionsFrame : Prop :=
  ∀ (i : Instr) (s t : State), exec i s = .next t →
    (∀ a, romReadAddr t.rom a = romReadAddr s.rom a) ∧ t.rom = s.rom ∧
    t.resetAsserted = s.resetAsserted ∧ t.inFlight = s.inFlight ∧ t.arbiterTick = s.arbiterTick ∧
    ∃ v, t.answers = s.answers ++ [⟨i, v⟩]

/-- 41 R63 and 95 section 4.4: two `ROUND` requests whose keys and halves have the same sum modulo 2^32
answer alike; so exchanging `KM` and `R` changes nothing. -/
def Obligations.OnlyTheKeySumMatters : Prop :=
  ∀ (ops : OpTriple) (km r km' r' : Word) (kr : BitVec 5) (s : State),
    (km.toNat + r.toNat) % 2 ^ 32 = (km'.toNat + r'.toNat) % 2 ^ 32 →
    ∃ w : Word, AnswersWith (Instr.round ops km kr r) s (.f w) ∧
      AnswersWith (Instr.round ops km' kr r') s (.f w)

/-- 00 R9: the rotation bit by bit, and its formula. -/
def Obligations.RotationIsCircular : Prop :=
  ∀ (x : Word) (n : BitVec 5),
    (∀ k, k < 32 → (rotl32 x n).getLsbD ((k + n.toNat) % 32) = x.getLsbD k) ∧
    (rotl32 x n).toNat = rotlN x.toNat n.toNat

/-- 41 R73: rotation by 0, by 31, and back. -/
def Obligations.RotationEdges : Prop :=
  ∀ x : Word, rotl32 x 0#5 = x ∧
    (rotl32 x 31#5).toNat = x.toNat / 2 + 2 ^ 31 * (x.toNat % 2) ∧
    ∀ n : Nat, 1 ≤ n → n ≤ 31 →
      rotl32 (rotl32 x (BitVec.ofNat 5 n)) (BitVec.ofNat 5 (32 - n)) = x

/-- 00 R10 and 41 R65: the lanes are the four bytes, and the lane map gives tables 0 to 3 bits 15:8, 7:0,
31:24 and 23:16, so that the four indices together are the whole word. -/
def Obligations.LanesAndTheirMap : Prop :=
  ∀ u : Word,
    (laneOf .lane3 u).toNat = bitsOf u.toNat 31 24 ∧ (laneOf .lane2 u).toNat = bitsOf u.toNat 23 16 ∧
    (laneOf .lane1 u).toNat = bitsOf u.toNat 15 8 ∧ (laneOf .lane0 u).toNat = bitsOf u.toNat 7 0 ∧
    laneOf .lane3 u ++ laneOf .lane2 u ++ laneOf .lane1 u ++ laneOf .lane0 u = u ∧
    (laneOf laneMap.table0 u).toNat = bitsOf u.toNat 15 8 ∧
    (laneOf laneMap.table1 u).toNat = bitsOf u.toNat 7 0 ∧
    (laneOf laneMap.table2 u).toNat = bitsOf u.toNat 31 24 ∧
    (laneOf laneMap.table3 u).toNat = bitsOf u.toNat 23 16 ∧
    laneOf laneMap.table2 u ++ laneOf laneMap.table3 u ++ laneOf laneMap.table0 u
      ++ laneOf laneMap.table1 u = u

/-- 00 R8: the three operators on unsigned words, the left operand first; and the two's-complement form of
`sub32`, which 41 R70 (c) derives (93 G6). -/
def Obligations.WordOperators : Prop :=
  ∀ (op : Op) (a b : Word), (applyOp op a b).toNat = applyN op a.toNat b.toNat ∧
    (∀ k, (xor32 a b).getLsbD k = (a.getLsbD k != b.getLsbD k)) ∧
    sub32 a b = add32 a (add32 (xor32 b 0xFFFFFFFF#32) 1#32)

/-- 41 R70 (f): mixed chains do not re-associate, while ADD before SUB does. -/
def Obligations.ChainsDoNotReassociate : Prop :=
  (∃ a b c : Word, add32 (xor32 a b) c ≠ xor32 a (add32 b c)) ∧
  (∃ a b c : Word, sub32 (sub32 a b) c ≠ sub32 a (sub32 b c)) ∧
  ∀ a b c : Word, sub32 (add32 a b) c = add32 a (sub32 b c)

/-- The corner case of 41 R76, R77, R79, R80, R85, R86, R88, R89: without XOR the response is the signed
sum of the four words modulo 2^32. -/
def Obligations.NoXorChainIsSignedSum : Prop :=
  ∀ (ops : OpTriple) (km : Word) (kr : BitVec 5) (r : Word) (s : State),
    ops.a ≠ .xor → ops.b ≠ .xor → ops.c ≠ .xor →
    ∃ w : Word, AnswersWith (Instr.round ops km kr r) s (.f w) ∧
      ∃ v0 v1 v2 v3 : Nat,
        roundN s.rom (fun x _ _ _ => x) km kr r = v0 ∧ roundN s.rom (fun _ x _ _ => x) km kr r = v1 ∧
        roundN s.rom (fun _ _ x _ => x) km kr r = v2 ∧ roundN s.rom (fun _ _ _ x => x) km kr r = v3 ∧
        (w.toNat : Int) = (v0 + signedN ops.a v1 + signedN ops.b v2 + signedN ops.c v3) % 2 ^ 32

/-- 41 R66: no `ROUND` request reads tables 4 to 7, under any lane map. -/
def Obligations.TablesFourToSevenUnread : Prop :=
  ∀ (ops : OpTriple) (km : Word) (kr : BitVec 5) (r : Word) (s s' : State),
    (∀ (t : BitVec 3) (i : BitVec 8), t.toNat < 4 → romRead s.rom t i = romRead s'.rom t i) →
    (∀ lanes, roundF lanes ops s.rom km kr r = roundF lanes ops s'.rom km kr r) ∧
    ∃ w : Word, AnswersWith (Instr.round ops km kr r) s (.f w) ∧
      AnswersWith (Instr.round ops km kr r) s' (.f w)

/-- 40 R61: what `SBOX.RD` returns for tables 0 to 3 at a request's lanes is what `ROUND` combines. -/
def Obligations.OneStoreTwoReaders : Prop :=
  ∀ (ops : OpTriple) (km : Word) (kr : BitVec 5) (r : Word) (s : State),
    let u := rotatedN km kr r
    ∃ q0 q1 q2 q3 w : Word,
      AnswersWith (.sboxRd 0 (BitVec.ofNat 8 (bitsOf u 15 8))) s (.q q0) ∧
      AnswersWith (.sboxRd 1 (BitVec.ofNat 8 (bitsOf u 7 0))) s (.q q1) ∧
      AnswersWith (.sboxRd 2 (BitVec.ofNat 8 (bitsOf u 31 24))) s (.q q2) ∧
      AnswersWith (.sboxRd 3 (BitVec.ofNat 8 (bitsOf u 23 16))) s (.q q3) ∧
      AnswersWith (Instr.round ops km kr r) s (.f w) ∧
      w.toNat = applyN ops.c (applyN ops.b (applyN ops.a q0.toNat q1.toNat) q2.toNat) q3.toNat

/-- 41 R75: the source's sanity scenario, for every ROM. -/
def Obligations.SanityScenario : Prop :=
  decode (.rnd (packRnd 0x09#6 0 0 0)) = .ok (.roundAddXorSub 0 0 0) ∧
  ∀ s : State, ∃ w : Word, AnswersWith (.roundAddXorSub 0 0 0) s (.f w) ∧
    w.toNat = subN (xorN (addN (romN s.rom 0 0) (romN s.rom 1 0)) (romN s.rom 2 0)) (romN s.rom 3 0)

/-! ### Reset, the ports and whole runs -/

/-- 10 R27, 70 R114: after reset every table word is `SBOX_ROM`'s and nothing is in flight; with no request
the core stays as it is. That reset is released is the model's reading of R114. -/
def Obligations.StateAfterReset : Prop :=
  (∀ t i, romRead State.reset.rom t i = Config.sboxRom t i) ∧ State.reset.inFlight = [] ∧
  State.reset.resetAsserted = false ∧ step State.reset = .next State.reset

/-- 70 R114, R115: asserting reset abandons what is in flight and leaves the ROM; while it is asserted no
request is accepted and no response is given; released, the core is idle with the same ROM. -/
def Obligations.ResetAbandonsRequests : Prop :=
  ∀ (s : State) (q : PortWord),
    let a := s.assertReset
    a.rom = s.rom ∧ a.inFlight = [] ∧ a.answers = s.answers ∧ a.present q = a ∧ step a = .next a ∧
    Idle a.releaseReset ∧ a.releaseReset.rom = s.rom ∧ a.releaseReset.answers = s.answers

/-- 70 R114, 10 R25: what was served before does not show in a response: two states whose ROMs read alike
answer every request alike. -/
def Obligations.HistoryDoesNotShow : Prop :=
  ∀ (i : Instr) (s s' : State), (∀ a, romReadAddr s.rom a = romReadAddr s'.rom a) →
    ∃ v, AnswersWith i s v ∧ AnswersWith i s' v

/-- 10 R25, 20 R34: a request repeated after any other requests gets the same response. That the next step
answers each request asked is the model's choice (log entries 14 and 3). -/
def Obligations.RepeatedRequestSameResponse : Prop :=
  ∀ (i : Instr) (others : List Instr) (s : State), Idle s →
    ∃ v s1 s2 s3, ask i s = some (v, s1) ∧ askAll others s1 = some s2 ∧ ask i s2 = some (v, s3)

/-- 10 R16, 20 R35: no step and no action of the host changes the ROM. -/
def Obligations.RomNeverChanges : Prop :=
  (∀ (n : Nat) (s t : State), core.run n s = .next t → State.rom t = s.rom) ∧
  ∀ (s : State) (q : PortWord), (s.present q).rom = s.rom ∧ s.assertReset.rom = s.rom ∧
    s.releaseReset.rom = s.rom

/-- 20 R39, 70 R115: `INIT_DONE` holds at reset. -/
def Obligations.InitDoneAtReset : Prop := InitDone State.reset

/-- 20 R38, 70 R115: once `INIT_DONE` holds, every read at any later time gives `SBOX_ROM`'s word, whatever
steps the core takes and whatever the host presents or does to reset in between. -/
def Obligations.InitDoneFromThenOn : Prop :=
  ∀ (events : List Event) (s t : State), InitDone s → afterEvents events s = some t →
    InitDone t ∧ ∀ (x : BitVec 3) (i : BitVec 8), AnswersWith (.sboxRd x i) t (.q (Config.sboxRom x i))

/-- The invariant holds at reset. -/
def Obligations.InvAtReset : Prop := Inv State.reset

/-- The invariant: every step that goes on keeps the ROM canonical, nothing in flight under reset, and every
response delivered the one its request has. -/
def Obligations.StepKeepsInv : Prop := ∀ s t : State, Inv s → step s = .next t → Inv t

/-- What the host does at the ports keeps the invariant. -/
def Obligations.HostKeepsInv : Prop :=
  ∀ (s : State) (q : PortWord), Inv s → Inv (s.present q) ∧ Inv s.assertReset ∧ Inv s.releaseReset

/-- Two canonical ROMs that read alike at every address are equal data. -/
def Obligations.CanonicalRomsAreEqual : Prop :=
  ∀ m m' : Rom, m.wf = true → m'.wf = true → (∀ a, romReadAddr m a = romReadAddr m' a) → m = m'

/-- 30 R59: a step that goes on delivers at most one response, and then to one request that was in flight:
the chosen one, and that same one is what leaves those in flight. It delivers none only under reset
(70 R114) or with nothing in flight (70 R126). That the chosen request is served at once is log entry 3. -/
def Obligations.OneResponsePerRequest : Prop :=
  ∀ s t : State, step s = .next t →
    (t.answers = s.answers ∧ t.inFlight = [] ∧ (s.resetAsserted = true ∨ s.inFlight = [])) ∨
    ∃ q i, s.inFlight[s.chosen]? = some q ∧ decode q = .ok i ∧
      t.answers = s.answers ++ [⟨i, response s.rom i⟩] ∧
      t.inFlight = s.inFlight.eraseIdx s.chosen ∧ (q :: t.inFlight).Perm s.inFlight

/-- 30 R59, 60 R112, 70 R125: with reset released and no reserved request in flight, as many steps as there
are requests answer each of them exactly once, by its own response, whatever the order. That a step always
serves a request is the model's choice (log entry 3): 70 R125 makes liveness a fairness assumption on the
implementation and no rule of the step. -/
def Obligations.EveryRequestIsAnswered : Prop :=
  ∀ s : State, s.resetAsserted = false → (∀ q ∈ s.inFlight, q.wellFormed = true) →
    ∃ (t : State) (new : List Answer), core.run s.inFlight.length s = .next t ∧
      t.inFlight = [] ∧ t.rom = s.rom ∧ t.answers = s.answers ++ new ∧
      (new.map fun a => encode a.request).Perm s.inFlight ∧
      ∀ a ∈ new, a.response = response s.rom a.request

/-- 20 R38, 60 R107, R112: any two schedules of the same requests give the same responses. That as many steps
as there are requests answer them all, since a step always serves one, is the model's choice (log entry 3):
70 R125 makes liveness no rule of the step. -/
def Obligations.SchedulesGiveTheSameResponses : Prop :=
  ∀ s s' : State, s.rom = s'.rom → s.resetAsserted = false → s'.resetAsserted = false →
    s.inFlight.Perm s'.inFlight → (∀ q ∈ s.inFlight, q.wellFormed = true) →
    ∃ (t t' : State) (new new' : List Answer),
      core.run s.inFlight.length s = .next t ∧ core.run s'.inFlight.length s' = .next t' ∧
      t.answers = s.answers ++ new ∧ t'.answers = s'.answers ++ new' ∧ new.Perm new'

/-- 70 R126: with nothing in flight the core neither halts nor changes. -/
def Obligations.IdleStepChangesNothing : Prop := ∀ s : State, Idle s → step s = .next s

/-- 60 R103, R105: a step never faults, and it refuses only a reserved `OPSEL` that is in flight. -/
def Obligations.OnlyReservedOpselsAreRefused : Prop :=
  ∀ s : State, (∀ x, step s ≠ .fault x) ∧
    ∀ x, step s = .refused x → ∃ (opsel : BitVec 6) (kr : BitVec 5) (km r : Word),
      x = .reservedOpsel opsel ∧ .rnd (packRnd opsel kr km r) ∈ s.inFlight ∧
        SlotReserved opsel.toNat

/-- 70 R122: after reset the host may present any request, and the next step of an idle core answers it;
the core is idle again. That the next step answers is the model's choice (log entry 3). -/
def Obligations.PresentedRequestIsAnswered : Prop :=
  ∀ (i : Instr) (s : State), Idle s →
    step (s.present (encode i)) = .next { s with
      answers := s.answers ++ [⟨i, response s.rom i⟩]
      arbiterTick := s.arbiterTick + 1 }

/-! ### The host's side -/

/-- 70 R117, R118: one round of the driver is `(L, R) <- (R, xor32(L, F))` with `F` the response to its
request, and leaves the core idle with its ROM. That the next step answers the driver is the model's choice
(log entry 14). -/
def Obligations.DriverRound : Prop :=
  ∀ (ops : OpTriple) (k : Subkey) (h : Halves) (s : State), Idle s →
    ∃ (w : Word) (t : State), response s.rom (Instr.round ops k.km k.kr h.r) = .f w ∧
      roundForward ops k h s = some (⟨h.r, h.l ^^^ w⟩, t) ∧ Idle t ∧ t.rom = s.rom

/-- 70 R127 (4), 95 program P4: for every ROM, every list of triples and subkeys and every block, the rounds
run forward and then back give the block again. The order of the backward pass (P4's, log entry 14), the
swap after the last round (log entry 19) and that the next step answers each request of the driver (log
entries 14 and 3) are the model's. -/
def Obligations.RoundTrip : Prop :=
  ∀ (rounds : List (OpTriple × Subkey)) (h : Halves) (s : State), Idle s →
    ∃ (h' : Halves) (t t' : State), roundsForward rounds h s = some (h', t) ∧ Idle t ∧
      roundsBackward rounds h' t = some (h, t')

/-- 70 R118, R119, R121: the driver's schedule has sixteen rounds; round `n` has the triple of round type
`(n mod 3) + 1` and the subkey of index `n`. -/
def Obligations.RoundTypesCycle : Prop :=
  ∀ (v : RoundTypes) (key : Nat → Subkey),
    (schedule v key).length = 16 ∧
    ∀ n, n < 16 → (schedule v key)[n]? = some
      (if n % 3 + 1 = 1 then v.type1 else if n % 3 + 1 = 2 then v.type2 else v.type3, key n)

/-- 70 R120: the driver presents `KR = amount mod 32`. -/
def Obligations.RotationAmountReduced : Prop :=
  ∀ (km : Word) (amount : Nat), (subkeyOf km amount).kr.toNat = amount % 32 ∧
    (subkeyOf km amount).km = km

/-- 30 R56, R57: the two example lines, read. -/
def Obligations.ExampleLinesRead : Prop :=
  ((readLine "f <- ROUND.ADD.XOR.SUB 0x01234567, 11, 0x89ABCDEF".toList).bind (Line.request []) =
    some (.roundAddXorSub 0x01234567 11 0x89ABCDEF)) ∧
  ((readLine "w <- SBOX.RD 5, 0x7F".toList).bind (Line.request []) = some (.sboxRd 5 0x7F))

/-- 30 R56, R57: the request line of every instruction, with the response bound to any name, reads back as
that instruction and that name. Which names a line can hold (`NameInText`) is the model's choice (log entry
16), and so is that the next step answers the line's request (log entry 14). -/
def Obligations.RequestLinesReadBack : Prop :=
  ∀ (i : Instr) (dst : VarName) (env : Env), NameInText dst →
    ∃ line : Line, readLine (writeRequest dst i) = some line ∧ line.request env = some i ∧
      ∀ s : State, Idle s → ∃ t : State,
        runLine line env s = some (env.set dst (response s.rom i).word, t)

/-- 30 R58: the simultaneous assignment `(L, R) <- (R, xor32(L, f))` reads both right sides before it
assigns either, and leaves the core alone. -/
def Obligations.SimultaneousAssignment : Prop :=
  ∃ line : Line, readLine "drv (L, R) <- (R, xor32(L, f))".toList = some line ∧
    ∀ (env : Env) (s : State) (l r f : Word), env.get ['L'] = some l → env.get ['R'] = some r →
      env.get ['f'] = some f →
      ∃ env' : Env, runLine line env s = some (env', s) ∧ env'.get ['L'] = some r ∧
        env'.get ['R'] = some (l ^^^ f)
end

