-- ==== Sys2Proof/Laws/Decode.lean ====
section
/-! SUPPORT. The fields of a packed request, and what an `OPSEL` of operator codes decodes to. -/

namespace Sys2Proof

variable (o : BitVec 6) (kr : BitVec 5) (km r : Word) (t : BitVec 3) (i : BitVec 8)

@[simp] theorem packRnd_opsel : (packRnd o kr km r).extractLsb' 69 6 = o := by
  apply BitVec.eq_of_getElem_eq
  intro k hk
  simp only [packRnd, BitVec.getElem_extractLsb', BitVec.getLsbD_append]
  rw [if_neg (by omega), if_neg (by omega), if_neg (by omega), BitVec.getLsbD_eq_getElem (by omega)]
  congr 1; omega

@[simp] theorem packRnd_kr : (packRnd o kr km r).extractLsb' 64 5 = kr := by
  apply BitVec.eq_of_getElem_eq
  intro k hk
  simp only [packRnd, BitVec.getElem_extractLsb', BitVec.getLsbD_append]
  rw [if_neg (by omega), if_neg (by omega), if_pos (by omega), BitVec.getLsbD_eq_getElem (by omega)]
  congr 1; omega

@[simp] theorem packRnd_km : (packRnd o kr km r).extractLsb' 32 32 = km := by
  apply BitVec.eq_of_getElem_eq
  intro k hk
  simp only [packRnd, BitVec.getElem_extractLsb', BitVec.getLsbD_append]
  rw [if_neg (by omega), if_pos (by omega), BitVec.getLsbD_eq_getElem (by omega)]
  congr 1; omega

@[simp] theorem packRnd_r : (packRnd o kr km r).extractLsb' 0 32 = r := by
  apply BitVec.eq_of_getElem_eq
  intro k hk
  simp only [packRnd, BitVec.getElem_extractLsb', BitVec.getLsbD_append]
  rw [if_pos (by omega), BitVec.getLsbD_eq_getElem (by omega)]
  congr 1; omega

@[simp] theorem packTbl_tsel : (packTbl t i).extractLsb' 8 3 = t := by
  apply BitVec.eq_of_getElem_eq
  intro k hk
  simp only [packTbl, BitVec.getElem_extractLsb', BitVec.getLsbD_append]
  rw [if_neg (by omega), BitVec.getLsbD_eq_getElem (by omega)]
  congr 1; omega

@[simp] theorem packTbl_idx : (packTbl t i).extractLsb' 0 8 = i := by
  apply BitVec.eq_of_getElem_eq
  intro k hk
  simp only [packTbl, BitVec.getElem_extractLsb', BitVec.getLsbD_append]
  rw [if_pos (by omega), BitVec.getLsbD_eq_getElem (by omega)]
  congr 1; omega

/-- A packed round request decodes by its three operator codes (30_encoding R49, R50). -/
theorem decode_packRnd :
    decode (.rnd (packRnd o kr km r)) =
      match Op.ofCode (o.extractLsb' 4 2), Op.ofCode (o.extractLsb' 2 2),
          Op.ofCode (o.extractLsb' 0 2) with
      | some a, some b, some c => .ok (Instr.round ⟨a, b, c⟩ km kr r)
      | _, _, _ => .error (.reservedOpsel o) := by
  simp only [decode, decodeRnd, packRnd_opsel, packRnd_kr, packRnd_km, packRnd_r]
    <;> rfl

/-- A code has no operator exactly when it is the reserved one (30_encoding R49). -/
theorem ofCode_eq_none_iff (c : BitVec 2) : Op.ofCode c = none ↔ codeReserved c = true := by
  revert c; decide

end Sys2Proof
end

