-- ==== Sys2Proof/Laws/PerInstr.lean ====
section
/-! SUPPORT. Statements made per instruction. `Request`: the request an instruction is encoded to is
well formed, none of its operator slots the reserved code (30_encoding R53). -/

namespace Sys2Proof.Laws.Request

/-- The encoded request of an instruction is well formed. -/
def Statement (i : Instr) : Prop := (encode i).wellFormed = true

theorem sboxRd (t : BitVec 3) (i : BitVec 8) : Statement (.sboxRd t i) := rfl

/-- A packed round request is well formed when its `OPSEL` is not reserved. -/
theorem wellFormed_packRnd {o : BitVec 6} (kr : BitVec 5) (km r : Word)
    (h : opselReserved o = false) : (PortWord.rnd (packRnd o kr km r)).wellFormed = true := by
  simp [PortWord.wellFormed, h]

theorem roundAddAddAdd (km : Word) (kr : BitVec 5) (r : Word) :
    Statement (.roundAddAddAdd km kr r) := wellFormed_packRnd kr km r (by decide)

theorem roundAddAddSub (km : Word) (kr : BitVec 5) (r : Word) :
    Statement (.roundAddAddSub km kr r) := wellFormed_packRnd kr km r (by decide)

theorem roundAddAddXor (km : Word) (kr : BitVec 5) (r : Word) :
    Statement (.roundAddAddXor km kr r) := wellFormed_packRnd kr km r (by decide)

theorem roundAddSubAdd (km : Word) (kr : BitVec 5) (r : Word) :
    Statement (.roundAddSubAdd km kr r) := wellFormed_packRnd kr km r (by decide)

theorem roundAddSubSub (km : Word) (kr : BitVec 5) (r : Word) :
    Statement (.roundAddSubSub km kr r) := wellFormed_packRnd kr km r (by decide)

theorem roundAddSubXor (km : Word) (kr : BitVec 5) (r : Word) :
    Statement (.roundAddSubXor km kr r) := wellFormed_packRnd kr km r (by decide)

theorem roundAddXorAdd (km : Word) (kr : BitVec 5) (r : Word) :
    Statement (.roundAddXorAdd km kr r) := wellFormed_packRnd kr km r (by decide)

theorem roundAddXorSub (km : Word) (kr : BitVec 5) (r : Word) :
    Statement (.roundAddXorSub km kr r) := wellFormed_packRnd kr km r (by decide)

theorem roundAddXorXor (km : Word) (kr : BitVec 5) (r : Word) :
    Statement (.roundAddXorXor km kr r) := wellFormed_packRnd kr km r (by decide)

theorem roundSubAddAdd (km : Word) (kr : BitVec 5) (r : Word) :
    Statement (.roundSubAddAdd km kr r) := wellFormed_packRnd kr km r (by decide)

theorem roundSubAddSub (km : Word) (kr : BitVec 5) (r : Word) :
    Statement (.roundSubAddSub km kr r) := wellFormed_packRnd kr km r (by decide)

theorem roundSubAddXor (km : Word) (kr : BitVec 5) (r : Word) :
    Statement (.roundSubAddXor km kr r) := wellFormed_packRnd kr km r (by decide)

theorem roundSubSubAdd (km : Word) (kr : BitVec 5) (r : Word) :
    Statement (.roundSubSubAdd km kr r) := wellFormed_packRnd kr km r (by decide)

theorem roundSubSubSub (km : Word) (kr : BitVec 5) (r : Word) :
    Statement (.roundSubSubSub km kr r) := wellFormed_packRnd kr km r (by decide)

theorem roundSubSubXor (km : Word) (kr : BitVec 5) (r : Word) :
    Statement (.roundSubSubXor km kr r) := wellFormed_packRnd kr km r (by decide)

theorem roundSubXorAdd (km : Word) (kr : BitVec 5) (r : Word) :
    Statement (.roundSubXorAdd km kr r) := wellFormed_packRnd kr km r (by decide)

theorem roundSubXorSub (km : Word) (kr : BitVec 5) (r : Word) :
    Statement (.roundSubXorSub km kr r) := wellFormed_packRnd kr km r (by decide)

theorem roundSubXorXor (km : Word) (kr : BitVec 5) (r : Word) :
    Statement (.roundSubXorXor km kr r) := wellFormed_packRnd kr km r (by decide)

theorem roundXorAddAdd (km : Word) (kr : BitVec 5) (r : Word) :
    Statement (.roundXorAddAdd km kr r) := wellFormed_packRnd kr km r (by decide)

theorem roundXorAddSub (km : Word) (kr : BitVec 5) (r : Word) :
    Statement (.roundXorAddSub km kr r) := wellFormed_packRnd kr km r (by decide)

theorem roundXorAddXor (km : Word) (kr : BitVec 5) (r : Word) :
    Statement (.roundXorAddXor km kr r) := wellFormed_packRnd kr km r (by decide)

theorem roundXorSubAdd (km : Word) (kr : BitVec 5) (r : Word) :
    Statement (.roundXorSubAdd km kr r) := wellFormed_packRnd kr km r (by decide)

theorem roundXorSubSub (km : Word) (kr : BitVec 5) (r : Word) :
    Statement (.roundXorSubSub km kr r) := wellFormed_packRnd kr km r (by decide)

theorem roundXorSubXor (km : Word) (kr : BitVec 5) (r : Word) :
    Statement (.roundXorSubXor km kr r) := wellFormed_packRnd kr km r (by decide)

theorem roundXorXorAdd (km : Word) (kr : BitVec 5) (r : Word) :
    Statement (.roundXorXorAdd km kr r) := wellFormed_packRnd kr km r (by decide)

theorem roundXorXorSub (km : Word) (kr : BitVec 5) (r : Word) :
    Statement (.roundXorXorSub km kr r) := wellFormed_packRnd kr km r (by decide)

theorem roundXorXorXor (km : Word) (kr : BitVec 5) (r : Word) :
    Statement (.roundXorXorXor km kr r) := wellFormed_packRnd kr km r (by decide)

end Sys2Proof.Laws.Request
end

