-- ==== Sys2Proof/Laws/State.lean ====
section
/-! SUPPORT. One lemma per field per update of the state. -/

namespace Sys2Proof.Machine

variable (s : State) (i : Instr) (v : Response) (n w : Nat)

@[simp] theorem deliver_rom : (s.deliver i v).rom = s.rom := rfl
@[simp] theorem deliver_resetAsserted : (s.deliver i v).resetAsserted = s.resetAsserted := rfl
@[simp] theorem deliver_inFlight : (s.deliver i v).inFlight = s.inFlight := rfl
@[simp] theorem deliver_answers : (s.deliver i v).answers = s.answers ++ [⟨i, v⟩] := rfl
@[simp] theorem deliver_arbiterTick : (s.deliver i v).arbiterTick = s.arbiterTick := rfl

@[simp] theorem abandon_rom : s.abandon.rom = s.rom := rfl
@[simp] theorem abandon_resetAsserted : s.abandon.resetAsserted = s.resetAsserted := rfl
@[simp] theorem abandon_inFlight : s.abandon.inFlight = [] := rfl
@[simp] theorem abandon_answers : s.abandon.answers = s.answers := rfl
@[simp] theorem abandon_arbiterTick : s.abandon.arbiterTick = s.arbiterTick := rfl

@[simp] theorem assertReset_rom : s.assertReset.rom = s.rom := rfl
@[simp] theorem assertReset_resetAsserted : s.assertReset.resetAsserted = true := rfl
@[simp] theorem assertReset_inFlight : s.assertReset.inFlight = [] := rfl
@[simp] theorem assertReset_answers : s.assertReset.answers = s.answers := rfl
@[simp] theorem assertReset_arbiterTick : s.assertReset.arbiterTick = s.arbiterTick := rfl

@[simp] theorem releaseReset_rom : s.releaseReset.rom = s.rom := rfl
@[simp] theorem releaseReset_resetAsserted : s.releaseReset.resetAsserted = false := rfl
@[simp] theorem releaseReset_inFlight : s.releaseReset.inFlight = s.inFlight := rfl
@[simp] theorem releaseReset_answers : s.releaseReset.answers = s.answers := rfl
@[simp] theorem releaseReset_arbiterTick : s.releaseReset.arbiterTick = s.arbiterTick := rfl

@[simp] theorem retire_rom : s.retire.rom = s.rom := rfl
@[simp] theorem retire_resetAsserted : s.retire.resetAsserted = s.resetAsserted := rfl
@[simp] theorem retire_inFlight : s.retire.inFlight = s.inFlight.eraseIdx s.chosen := rfl
@[simp] theorem retire_answers : s.retire.answers = s.answers := rfl
@[simp] theorem retire_arbiterTick : s.retire.arbiterTick = s.arbiterTick + 1 := rfl

@[simp] theorem withFetchWord_rom : (s.withFetchWord n w).rom = s.rom := rfl
@[simp] theorem withFetchWord_resetAsserted : (s.withFetchWord n w).resetAsserted = false := rfl
@[simp] theorem withFetchWord_inFlight :
    (s.withFetchWord n w).inFlight = (portWordOfTable n w).toList := rfl
@[simp] theorem withFetchWord_answers : (s.withFetchWord n w).answers = s.answers := rfl
@[simp] theorem withFetchWord_arbiterTick : (s.withFetchWord n w).arbiterTick = s.arbiterTick := rfl

/-- Presenting a request never touches the ROM. -/
@[simp] theorem present_rom (q : PortWord) : (s.present q).rom = s.rom := by
  unfold State.present; split <;> rfl

@[simp] theorem present_resetAsserted (q : PortWord) :
    (s.present q).resetAsserted = s.resetAsserted := by
  unfold State.present; split <;> rfl

@[simp] theorem present_answers (q : PortWord) : (s.present q).answers = s.answers := by
  unfold State.present; split <;> rfl

@[simp] theorem present_arbiterTick (q : PortWord) :
    (s.present q).arbiterTick = s.arbiterTick := by
  unfold State.present; split <;> rfl

/-- A request presented while reset is released joins the requests in flight. -/
theorem present_inFlight_released {s : State} (q : PortWord) (h : s.resetAsserted = false) :
    (s.present q).inFlight = s.inFlight ++ [q] := by
  simp [State.present, h]

/-- A request presented while reset is asserted is not accepted. -/
theorem present_asserted {s : State} (q : PortWord) (h : s.resetAsserted = true) :
    s.present q = s := by
  simp [State.present, h]

end Sys2Proof.Machine
end

