-- ==== Sys2Proof/Laws/Step.lean ====
section
/-! SUPPORT. What each shared operation can do, said once: the arbiter's choice, a fetch, an
instruction's answer, a step. -/

namespace Sys2Proof.Machine

/-- The chosen place is one of the requests in flight. -/
theorem chosen_lt {s : State} (h : s.inFlight ≠ []) : s.chosen < s.inFlight.length := by
  have hpos : 0 < s.inFlight.length := List.length_pos_iff.2 h
  unfold State.chosen
  split
  · exact hpos
  · exact Nat.mod_lt _ hpos

/-- With one request in flight, it is the chosen one. -/
theorem chosen_of_singleton {s : State} {q : PortWord} (h : s.inFlight = [q]) : s.chosen = 0 := by
  simp [State.chosen, h]

/-- A fetch takes the chosen request out of the requests in flight. -/
theorem fetch_eq_some {s t : State} {q : PortWord} (h : s.fetch = some (q, t)) :
    s.inFlight[s.chosen]? = some q ∧ t = s.retire := by
  unfold State.fetch at h
  split at h
  · cases h
  · simp_all

/-- A fetch finds nothing exactly when nothing is in flight. -/
theorem fetch_eq_none_iff (s : State) : s.fetch = none ↔ s.inFlight = [] := by
  constructor
  · intro h
    by_contra hne
    have hlt := chosen_lt hne
    simp [State.fetch, List.getElem?_eq_getElem hlt] at h
  · intro h
    simp [State.fetch, h]

/-- An instruction's answer is delivered, and nothing else happens: all that any arm of `exec` can do. -/
theorem exec_cases {i : Instr} {s t : State} (h : exec i s = .next t) : ∃ v, t = s.deliver i v := by
  cases i <;> exact ⟨_, (Host.Outcome.next.inj h).symm⟩

/-- No arm of `exec` refuses. -/
theorem exec_ne_refused (i : Instr) (s : State) (x : Refusal) : exec i s ≠ .refused x := by
  intro h
  cases i <;> cases (show Host.Outcome.next _ = _ from h)

/-- All that a step can do when it goes on: reset asserted, nothing in flight, or one request
answered. -/
theorem step_cases {s t : State} (h : step s = .next t) :
    (s.resetAsserted = true ∧ t = s.abandon) ∨
    (s.resetAsserted = false ∧ s.inFlight = [] ∧ t = s) ∨
    (s.resetAsserted = false ∧ ∃ q i v, s.inFlight[s.chosen]? = some q ∧ decode q = .ok i ∧
      exec i s.retire = .next t ∧ t = s.retire.deliver i v) := by
  unfold step at h
  split at h
  · exact .inl ⟨‹_›, (Host.Outcome.next.inj h).symm⟩
  · have hr : s.resetAsserted = false := by simp_all
    split at h
    · exact .inr (.inl ⟨hr, (fetch_eq_none_iff s).1 ‹_›, (Host.Outcome.next.inj h).symm⟩)
    · rename_i q u hf
      obtain ⟨hq, rfl⟩ := fetch_eq_some hf
      split at h
      · rename_i i hd
        obtain ⟨v, hv⟩ := exec_cases h
        exact .inr (.inr ⟨hr, q, i, v, hq, hd, h, hv⟩)
      · cases h

/-- A step that serves a request runs the decoded instruction. -/
theorem step_serves {s : State} {q : PortWord} {i : Instr} (hr : s.resetAsserted = false)
    (hq : s.inFlight[s.chosen]? = some q) (hd : decode q = .ok i) :
    step s = exec i s.retire := by
  simp [step, hr, State.fetch, hq, hd]

end Sys2Proof.Machine
end

