-- ==== Sys2Proof/Laws/Run.lean ====
section
/-! SUPPORT. Runs of the machine: their first step, and the induction that carries a relation kept by
every step along a run; the same for a history of steps and host actions. -/

namespace Sys2Proof.Machine

@[simp] theorem run_zero (s : State) : core.run 0 s = .next s := rfl

/-- A run of one step more goes on from where its first step leads. -/
theorem run_succ_of_step {s t : State} (n : Nat) (h : step s = .next t) :
    core.run (n + 1) s = core.run n t := by
  have h' : core.step s = .next t := h
  simp only [Host.Core.run, h']

/-- A run of one step more that goes on had a first step that went on. -/
theorem run_succ_cases {s t : State} {n : Nat} (h : core.run (n + 1) s = .next t) :
    ∃ u, step s = .next u ∧ core.run n u = .next t := by
  cases hs : step s with
  | next u => exact ⟨u, rfl, (run_succ_of_step n hs).symm.trans h⟩
  | fault x => exact nomatch x
  | refused x =>
    have h' : core.step s = .refused x := hs
    simp only [Host.Core.run, h'] at h
    cases h

/-- A reflexive, transitive relation that every step keeps holds between the ends of every run. -/
theorem run_induction {P : State → State → Prop} (hrefl : ∀ s, P s s)
    (htrans : ∀ {s u t}, P s u → P u t → P s t)
    (hstep : ∀ {s t}, step s = .next t → P s t) :
    ∀ (n : Nat) {s t : State}, core.run n s = .next t → P s t
  | 0, s, _, h => by cases h; exact hrefl s
  | n + 1, _, _, h =>
    let ⟨_, h1, h2⟩ := run_succ_cases h
    htrans (hstep h1) (run_induction hrefl htrans hstep n h2)

/-- All that one event can do. -/
theorem afterEvent_cases {e : Event} {s t : State} (h : afterEvent e s = some t) :
    (e = .step ∧ step s = .next t) ∨ (∃ q, e = .present q ∧ t = s.present q) ∨
    (e = .assertReset ∧ t = s.assertReset) ∨ (e = .releaseReset ∧ t = s.releaseReset) := by
  cases e with
  | step =>
    simp only [afterEvent] at h
    split at h <;> simp_all
  | present q => exact .inr (.inl ⟨q, rfl, (Option.some.inj h).symm⟩)
  | assertReset => exact .inr (.inr (.inl ⟨rfl, (Option.some.inj h).symm⟩))
  | releaseReset => exact .inr (.inr (.inr ⟨rfl, (Option.some.inj h).symm⟩))

/-- A history of one event more that goes on had a first event that did. -/
theorem afterEvents_cons_cases {e : Event} {es : List Event} {s t : State}
    (h : afterEvents (e :: es) s = some t) :
    ∃ u, afterEvent e s = some u ∧ afterEvents es u = some t := Option.bind_eq_some_iff.1 h

/-- A reflexive, transitive relation that every event keeps holds between the ends of every history. -/
theorem afterEvents_induction {P : State → State → Prop} (hrefl : ∀ s, P s s)
    (htrans : ∀ {s u t}, P s u → P u t → P s t)
    (hevent : ∀ {e s t}, afterEvent e s = some t → P s t) :
    ∀ (es : List Event) {s t : State}, afterEvents es s = some t → P s t
  | [], s, _, h => by cases h; exact hrefl s
  | _ :: es, _, _, h =>
    let ⟨_, h1, h2⟩ := afterEvents_cons_cases h
    htrans (hevent h1) (afterEvents_induction hrefl htrans hevent es h2)

/-- A run is the history of its steps alone. -/
theorem afterEvents_of_run (n : Nat) {s t : State} (h : core.run n s = .next t) :
    afterEvents (List.replicate n .step) s = some t := by
  induction n generalizing s with
  | zero => cases h; rfl
  | succ n ih =>
    obtain ⟨u, h1, h2⟩ := run_succ_cases h
    simp [List.replicate_succ, afterEvents, afterEvent, h1, ih h2]

end Sys2Proof.Machine
end

