-- ==== Sys2Proof/Tests/Slice0.lean ====
section
/-! SUPPORT. Tests of one step each, expected values from spec/95_test_vectors.md and the rules; the
well-formedness smoke tests; and a witness for the hypotheses of every statement that has any. -/

namespace Sys2Proof.Tests

open Sys2Proof.Machine Sys2Proof.Spec

/-- The four words of `ROM_MIX` that example A reads (41 Part 2), and of V2 and `SBOX.RD 7, 0xFF`
(95 sections 3, 4.1). -/
def mixRom : Rom :=
  [(0x003, 0x78DDE6E4), (0x0B4, 0xDD390FCD), (0x104, 0x4E8F199D), (0x156, 0xFC5416DF),
    (0x201, 0xAB626572), (0x278, 0x372BFA71), (0x302, 0x8113982B), (0x39A, 0x7203DE03),
    (0x7FF, 0xBBCDC800)]

/-- The words of `ROM_ID` that V2 and V7 read. -/
def idRom : Rom :=
  [(0x001, 0x001), (0x003, 0x003), (0x104, 0x104), (0x182, 0x182), (0x200, 0x200), (0x201, 0x201),
    (0x302, 0x302), (0x381, 0x381)]

/-- The state after reset with other table contents. -/
def withRom (m : Rom) : State := { State.reset with rom := m }

/-- The state after reset with requests in flight. -/
def withRequests (qs : List PortWord) : State := { State.reset with inFlight := qs }

/-- The word of the last response after a step that goes on. -/
def lastWord : Host.Outcome State Fault Refusal → Option Word
  | .next t => t.answers.getLast?.map fun a => a.response.word
  | _ => none

/-- The instruction a request decodes to. -/
def decoded (q : PortWord) : Option Instr := (decode q).toOption

/-! ### Decoding: the words bit by bit from 30_encoding R45 and R47, with `KR` = 11, `KM` = 0x01234567 and
`R` = 0x89ABCDEF -/

theorem test_decode_sboxRd : decoded (.tbl 0b101_01111111#11) = some (.sboxRd 5 0x7F) := by decide

theorem test_decode_roundAddAddAdd :
    decoded (.rnd 0b000000_01011_00000001001000110100010101100111_10001001101010111100110111101111#75)
      = some (.roundAddAddAdd 0x01234567 11 0x89ABCDEF) := by decide

theorem test_decode_roundAddAddSub :
    decoded (.rnd 0b000001_01011_00000001001000110100010101100111_10001001101010111100110111101111#75)
      = some (.roundAddAddSub 0x01234567 11 0x89ABCDEF) := by decide

theorem test_decode_roundAddAddXor :
    decoded (.rnd 0b000010_01011_00000001001000110100010101100111_10001001101010111100110111101111#75)
      = some (.roundAddAddXor 0x01234567 11 0x89ABCDEF) := by decide

theorem test_decode_roundAddSubAdd :
    decoded (.rnd 0b000100_01011_00000001001000110100010101100111_10001001101010111100110111101111#75)
      = some (.roundAddSubAdd 0x01234567 11 0x89ABCDEF) := by decide

theorem test_decode_roundAddSubSub :
    decoded (.rnd 0b000101_01011_00000001001000110100010101100111_10001001101010111100110111101111#75)
      = some (.roundAddSubSub 0x01234567 11 0x89ABCDEF) := by decide

theorem test_decode_roundAddSubXor :
    decoded (.rnd 0b000110_01011_00000001001000110100010101100111_10001001101010111100110111101111#75)
      = some (.roundAddSubXor 0x01234567 11 0x89ABCDEF) := by decide

theorem test_decode_roundAddXorAdd :
    decoded (.rnd 0b001000_01011_00000001001000110100010101100111_10001001101010111100110111101111#75)
      = some (.roundAddXorAdd 0x01234567 11 0x89ABCDEF) := by decide

theorem test_decode_roundAddXorSub :
    decoded (.rnd 0b001001_01011_00000001001000110100010101100111_10001001101010111100110111101111#75)
      = some (.roundAddXorSub 0x01234567 11 0x89ABCDEF) := by decide

theorem test_decode_roundAddXorXor :
    decoded (.rnd 0b001010_01011_00000001001000110100010101100111_10001001101010111100110111101111#75)
      = some (.roundAddXorXor 0x01234567 11 0x89ABCDEF) := by decide

theorem test_decode_roundSubAddAdd :
    decoded (.rnd 0b010000_01011_00000001001000110100010101100111_10001001101010111100110111101111#75)
      = some (.roundSubAddAdd 0x01234567 11 0x89ABCDEF) := by decide

theorem test_decode_roundSubAddSub :
    decoded (.rnd 0b010001_01011_00000001001000110100010101100111_10001001101010111100110111101111#75)
      = some (.roundSubAddSub 0x01234567 11 0x89ABCDEF) := by decide

theorem test_decode_roundSubAddXor :
    decoded (.rnd 0b010010_01011_00000001001000110100010101100111_10001001101010111100110111101111#75)
      = some (.roundSubAddXor 0x01234567 11 0x89ABCDEF) := by decide

theorem test_decode_roundSubSubAdd :
    decoded (.rnd 0b010100_01011_00000001001000110100010101100111_10001001101010111100110111101111#75)
      = some (.roundSubSubAdd 0x01234567 11 0x89ABCDEF) := by decide

theorem test_decode_roundSubSubSub :
    decoded (.rnd 0b010101_01011_00000001001000110100010101100111_10001001101010111100110111101111#75)
      = some (.roundSubSubSub 0x01234567 11 0x89ABCDEF) := by decide

theorem test_decode_roundSubSubXor :
    decoded (.rnd 0b010110_01011_00000001001000110100010101100111_10001001101010111100110111101111#75)
      = some (.roundSubSubXor 0x01234567 11 0x89ABCDEF) := by decide

theorem test_decode_roundSubXorAdd :
    decoded (.rnd 0b011000_01011_00000001001000110100010101100111_10001001101010111100110111101111#75)
      = some (.roundSubXorAdd 0x01234567 11 0x89ABCDEF) := by decide

theorem test_decode_roundSubXorSub :
    decoded (.rnd 0b011001_01011_00000001001000110100010101100111_10001001101010111100110111101111#75)
      = some (.roundSubXorSub 0x01234567 11 0x89ABCDEF) := by decide

theorem test_decode_roundSubXorXor :
    decoded (.rnd 0b011010_01011_00000001001000110100010101100111_10001001101010111100110111101111#75)
      = some (.roundSubXorXor 0x01234567 11 0x89ABCDEF) := by decide

theorem test_decode_roundXorAddAdd :
    decoded (.rnd 0b100000_01011_00000001001000110100010101100111_10001001101010111100110111101111#75)
      = some (.roundXorAddAdd 0x01234567 11 0x89ABCDEF) := by decide

theorem test_decode_roundXorAddSub :
    decoded (.rnd 0b100001_01011_00000001001000110100010101100111_10001001101010111100110111101111#75)
      = some (.roundXorAddSub 0x01234567 11 0x89ABCDEF) := by decide

theorem test_decode_roundXorAddXor :
    decoded (.rnd 0b100010_01011_00000001001000110100010101100111_10001001101010111100110111101111#75)
      = some (.roundXorAddXor 0x01234567 11 0x89ABCDEF) := by decide

theorem test_decode_roundXorSubAdd :
    decoded (.rnd 0b100100_01011_00000001001000110100010101100111_10001001101010111100110111101111#75)
      = some (.roundXorSubAdd 0x01234567 11 0x89ABCDEF) := by decide

theorem test_decode_roundXorSubSub :
    decoded (.rnd 0b100101_01011_00000001001000110100010101100111_10001001101010111100110111101111#75)
      = some (.roundXorSubSub 0x01234567 11 0x89ABCDEF) := by decide

theorem test_decode_roundXorSubXor :
    decoded (.rnd 0b100110_01011_00000001001000110100010101100111_10001001101010111100110111101111#75)
      = some (.roundXorSubXor 0x01234567 11 0x89ABCDEF) := by decide

theorem test_decode_roundXorXorAdd :
    decoded (.rnd 0b101000_01011_00000001001000110100010101100111_10001001101010111100110111101111#75)
      = some (.roundXorXorAdd 0x01234567 11 0x89ABCDEF) := by decide

theorem test_decode_roundXorXorSub :
    decoded (.rnd 0b101001_01011_00000001001000110100010101100111_10001001101010111100110111101111#75)
      = some (.roundXorXorSub 0x01234567 11 0x89ABCDEF) := by decide

theorem test_decode_roundXorXorXor :
    decoded (.rnd 0b101010_01011_00000001001000110100010101100111_10001001101010111100110111101111#75)
      = some (.roundXorXorXor 0x01234567 11 0x89ABCDEF) := by decide

/-! ### The operations: example A of 95 section 4.2, the last word of the ROM (95 section 3) -/

theorem test_sboxRd : lastWord (exec (.sboxRd 7 0xFF) (withRom mixRom)) = some 0xBBCDC800#32 := by
  decide

theorem test_roundAddAddAdd :
    lastWord (exec (.roundAddAddAdd 0x01234567 11 0x89ABCDEF) (withRom mixRom)) = some 0x82BCFF20#32 := by decide

theorem test_roundAddAddSub :
    lastWord (exec (.roundAddAddSub 0x01234567 11 0x89ABCDEF) (withRom mixRom)) = some 0x9EB5431A#32 := by decide

theorem test_roundAddAddXor :
    lastWord (exec (.roundAddAddXor 0x01234567 11 0x89ABCDEF) (withRom mixRom)) = some 0x62BAFF1E#32 := by decide

theorem test_roundAddSubAdd :
    lastWord (exec (.roundAddSubAdd 0x01234567 11 0x89ABCDEF) (withRom mixRom)) = some 0x14650A3E#32 := by decide

theorem test_roundAddSubSub :
    lastWord (exec (.roundAddSubSub 0x01234567 11 0x89ABCDEF) (withRom mixRom)) = some 0x305D4E38#32 := by decide

theorem test_roundAddSubXor :
    lastWord (exec (.roundAddSubXor 0x01234567 11 0x89ABCDEF) (withRom mixRom)) = some 0xD062F238#32 := by decide

theorem test_roundAddXorAdd :
    lastWord (exec (.roundAddXorAdd 0x01234567 11 0x89ABCDEF) (withRom mixRom)) = some 0x60AABAE0#32 := by decide

theorem test_roundAddXorSub :
    lastWord (exec (.roundAddXorSub 0x01234567 11 0x89ABCDEF) (withRom mixRom)) = some 0x7CA2FEDA#32 := by decide

theorem test_roundAddXorXor :
    lastWord (exec (.roundAddXorXor 0x01234567 11 0x89ABCDEF) (withRom mixRom)) = some 0x9CA502DE#32 := by decide

theorem test_roundSubAddAdd :
    lastWord (exec (.roundSubAddAdd 0x01234567 11 0x89ABCDEF) (withRom mixRom)) = some 0x8A14D162#32 := by decide

theorem test_roundSubAddSub :
    lastWord (exec (.roundSubAddSub 0x01234567 11 0x89ABCDEF) (withRom mixRom)) = some 0xA60D155C#32 := by decide

theorem test_roundSubAddXor :
    lastWord (exec (.roundSubAddXor 0x01234567 11 0x89ABCDEF) (withRom mixRom)) = some 0x6A132D5C#32 := by decide

theorem test_roundSubSubAdd :
    lastWord (exec (.roundSubSubAdd 0x01234567 11 0x89ABCDEF) (withRom mixRom)) = some 0x1BBCDC80#32 := by decide

theorem test_roundSubSubSub :
    lastWord (exec (.roundSubSubSub 0x01234567 11 0x89ABCDEF) (withRom mixRom)) = some 0x37B5207A#32 := by decide

theorem test_roundSubSubXor :
    lastWord (exec (.roundSubSubXor 0x01234567 11 0x89ABCDEF) (withRom mixRom)) = some 0xDBBB207E#32 := by decide

theorem test_roundSubXorAdd :
    lastWord (exec (.roundSubXorAdd 0x01234567 11 0x89ABCDEF) (withRom mixRom)) = some 0x49D2E0A2#32 := by decide

theorem test_roundSubXorSub :
    lastWord (exec (.roundSubXorSub 0x01234567 11 0x89ABCDEF) (withRom mixRom)) = some 0x65CB249C#32 := by decide

theorem test_roundSubXorXor :
    lastWord (exec (.roundSubXorXor 0x01234567 11 0x89ABCDEF) (withRom mixRom)) = some 0xA5CCDC9C#32 := by decide

theorem test_roundXorAddAdd :
    lastWord (exec (.roundXorAddAdd 0x01234567 11 0x89ABCDEF) (withRom mixRom)) = some 0xCA9CF186#32 := by decide

theorem test_roundXorAddSub :
    lastWord (exec (.roundXorAddSub 0x01234567 11 0x89ABCDEF) (withRom mixRom)) = some 0xE6953580#32 := by decide

theorem test_roundXorAddXor :
    lastWord (exec (.roundXorAddXor 0x01234567 11 0x89ABCDEF) (withRom mixRom)) = some 0x2A9ACD80#32 := by decide

theorem test_roundXorSubAdd :
    lastWord (exec (.roundXorSubAdd 0x01234567 11 0x89ABCDEF) (withRom mixRom)) = some 0x5C44FCA4#32 := by decide

theorem test_roundXorSubSub :
    lastWord (exec (.roundXorSubSub 0x01234567 11 0x89ABCDEF) (withRom mixRom)) = some 0x783D409E#32 := by decide

theorem test_roundXorSubXor :
    lastWord (exec (.roundXorSubXor 0x01234567 11 0x89ABCDEF) (withRom mixRom)) = some 0x9842C0A2#32 := by decide

theorem test_roundXorXorAdd :
    lastWord (exec (.roundXorXorAdd 0x01234567 11 0x89ABCDEF) (withRom mixRom)) = some 0x884AC166#32 := by decide

theorem test_roundXorXorSub :
    lastWord (exec (.roundXorXorSub 0x01234567 11 0x89ABCDEF) (withRom mixRom)) = some 0xA4430560#32 := by decide

theorem test_roundXorXorXor :
    lastWord (exec (.roundXorXorXor 0x01234567 11 0x89ABCDEF) (withRom mixRom)) = some 0x64453D60#32 := by decide

/-- V2 on `ROM_MIX`: tells the lane map from the three wrong ones (95 section 4.3). -/
theorem test_laneMap_v2 :
    lastWord (exec (.roundAddXorSub 0 0 0x01020304) (withRom mixRom)) = some 0xEAFBCDC8#32 := by decide

/-- V3: step 1 wraps (95 section 4.1). -/
theorem test_keyAddition_wraps_v3 :
    lastWord (exec (.roundAddXorSub 0xFFFFFFFF 0 0x01020305) (withRom idRom)) = some 0x00000004#32 := by
  decide

/-- V7: rotation by 31 (95 section 4.1). -/
theorem test_rotation31_v7 :
    lastWord (exec (.roundAddXorSub 0 31 0x01020304) (withRom idRom)) = some 0x00000002#32 := by decide

/-- 95 section 2: rotation by 0, 11 and 31. -/
theorem test_rotl32 : rotl32 0x8ACF1356 0 = 0x8ACF1356 ∧ rotl32 0x8ACF1356 11 = 0x789AB456 ∧
    rotl32 0x8ACF1356 31 = 0x456789AB := by decide

/-- 95 section 2: borrow and carry. -/
theorem test_primitives : add32 0xFFFFFFFF 1 = 0 ∧ sub32 0 1 = 0xFFFFFFFF ∧
    sub32 0x12345678 0xFEDCBA98 = 0x13579BE0 ∧ xor32 0x12345678 0xFEDCBA98 = 0xECE8ECE0 := by decide

/-! ### Well-formedness: an ill-formed term for each check, refused -/

theorem test_wf_opa_reserved : PortWord.wellFormed (.rnd (packRnd 0b110000#6 0 0 0)) = false := by decide
theorem test_wf_opb_reserved : PortWord.wellFormed (.rnd (packRnd 0b001100#6 0 0 0)) = false := by decide
theorem test_wf_opc_reserved : PortWord.wellFormed (.rnd (packRnd 0b000011#6 0 0 0)) = false := by decide
theorem test_wf_accepts : PortWord.wellFormed (.rnd (packRnd 0b101010#6 31 0 0)) = true := by decide

/-- Two round types with one triple. -/
theorem test_wf_roundTypes_repeated :
    RoundTypes.wellFormed ⟨⟨.add, .xor, .sub⟩, ⟨.add, .xor, .sub⟩, ⟨.sub, .add, .xor⟩⟩ = false := by
  decide

/-- Three triples without (ADD, XOR, SUB). -/
theorem test_wf_roundTypes_lacks :
    RoundTypes.wellFormed ⟨⟨.xor, .xor, .xor⟩, ⟨.xor, .sub, .add⟩, ⟨.sub, .add, .xor⟩⟩ = false := by
  decide

/-- The three triples of 95 program P2. -/
theorem test_wf_roundTypes_accepts :
    RoundTypes.wellFormed ⟨⟨.add, .xor, .sub⟩, ⟨.xor, .sub, .add⟩, ⟨.sub, .add, .xor⟩⟩ = true := by
  decide

/-! ### The step, the opcode table's numbers and the host's side -/

/-- 95 section 4.4: `OPSEL` = 0x03 is refused by name. -/
theorem test_step_refuses :
    step (withRequests [.rnd 0x0600000000000000000#75]) = .refused (.reservedOpsel 0x03) := by rfl

/-- The numbers of the opcode table, `REQ` with `OPSEL` = 0x09 and `TREQ` = 0x57F. -/
theorem test_decodeTableWord :
    decodeTableWord 80 0x1200000000000000000 = some (.roundAddXorSub 0 0 0) ∧
    decodeTableWord 16 0x57F = some (.sboxRd 5 0x7F) ∧ decodeTableWord 16 0x800 = none := by decide

/-- A number of the opcode table placed after reset is served by the next step. -/
theorem test_withFetchWord :
    lastWord (step ((withRom mixRom).withFetchWord 80 0x12B0123456789ABCDEF)) = some 0x7CA2FEDA#32 := by
  decide

/-- 95 program P2, lines 1 and 2. -/
theorem test_roundForward :
    (roundForward ⟨.add, .xor, .sub⟩ ⟨0x01234567, 11⟩ ⟨0x01234567, 0x89ABCDEF⟩ (withRom mixRom)).map
      Prod.fst = some ⟨0x89ABCDEF, 0x7D81BBBD⟩ := by decide

/-- 95 program P3, line 6: the rotation amount is reduced, and line 8. -/
theorem test_drv_lines :
    ((readLine "drv kr <- xor32(c, d) mod 32".toList).bind fun l =>
      (runLine l [("c".toList, 0x9578A269), ("d".toList, 0xB069F6F9)] State.reset).bind fun p =>
        p.1.get "kr".toList) = some 16 ∧
    readLine "drv L <- xor32(L, f)".toList = some (.drv [['L']] [.xor32 (.var ['L']) (.var ['f'])]) := by
  decide

/-- 95 section 6: the unreduced rotation amount of P3 cannot be presented. -/
theorem test_rotation_not_presentable :
    Line.request [("kr".toList, 0x25115490)]
      (.round ['f'] ⟨.add, .xor, .sub⟩ (.lit 0) (.var ['k', 'r']) (.lit 0)) = none ∧
    readLine "f <- ROUND.ADD.XOR.SUB 0x00000000, 32, 0x00000000".toList = none := by decide

/-! ### Witnesses: concrete states and operands that meet a statement's hypotheses together -/

/-- A request used by the witnesses, V16 of 95 section 4.2. -/
def v16 : PortWord := .rnd 0x247DEADBEEF0BADF00D#75

theorem idle_reset : Idle State.reset := ⟨rfl, rfl⟩

/-- StepServesChosenRequest. -/
theorem witness_step_serves :
    (withRequests [v16]).inFlight ≠ [] ∧ (withRequests [v16]).resetAsserted = false ∧
    (withRequests [v16]).inFlight[(withRequests [v16]).chosen]? = some v16 ∧
    decode v16 = .ok (.roundSubAddXor 0xDEADBEEF 7 0x0BADF00D) :=
  ⟨by decide, rfl, rfl, rfl⟩

/-- StepRefusesReservedOpsel, OnlyReservedOpselsAreRefused: each slot in turn. -/
theorem witness_reserved_opsel :
    SlotReserved (0x03#6).toNat ∧ SlotReserved (0x0C#6).toNat ∧ SlotReserved (0x30#6).toNat ∧
    (withRequests [.rnd (packRnd 0x03#6 0 0 0)]).resetAsserted = false ∧
    (withRequests [.rnd (packRnd 0x03#6 0 0 0)]).inFlight[
      (withRequests [.rnd (packRnd 0x03#6 0 0 0)]).chosen]? = some (.rnd (packRnd 0x03#6 0 0 0)) ∧
    step (withRequests [.rnd (packRnd 0x03#6 0 0 0)]) = .refused (.reservedOpsel 0x03) :=
  ⟨by unfold SlotReserved; decide, by unfold SlotReserved; decide, by unfold SlotReserved; decide,
    rfl, rfl, rfl⟩

/-- ReservedOpselsAreTheListed: a value of each branch, side by side. -/
theorem witness_reserved_list :
    (0x03#6).toNat ∈ reservedList ∧ (0x02#6).toNat ∉ reservedList ∧ (0x3F#6).toNat ∈ reservedList ∧
    (0x2A#6).toNat ∉ reservedList := by decide

/-- EncodeOfDecode. -/
theorem witness_decode : decode (.tbl 0x7FF#11) = .ok (.sboxRd 7 0xFF) := rfl

/-- RoundRequestFields, RoundIsOneFunction: the largest `REQ` of the opcode map. -/
theorem witness_fields : ¬ SlotReserved (bitsOf (0x55FFFFFFFFFFFFFFFFF#75).toNat 74 69) := by
  norm_num [SlotReserved, bitsOf]

/-- InstructionsFrame. -/
theorem witness_exec_next :
    exec (.sboxRd 0 0) State.reset = .next (State.reset.deliver (.sboxRd 0 0)
      (.q (romRead [] 0 0))) := rfl

/-- OnlyTheKeySumMatters: V2 and V3 of 95 section 4.1. -/
theorem witness_key_sum : ((0xFFFFFFFF#32).toNat + (0x01020305#32).toNat) % 2 ^ 32
    = ((0x00000000#32).toNat + (0x01020304#32).toNat) % 2 ^ 32 := by decide

/-- RotationIsCircular and RotationEdges: the ends of their ranges. -/
theorem witness_rotation : (31 : Nat) < 32 ∧ 1 ≤ (1 : Nat) ∧ (1 : Nat) ≤ 31 ∧ 1 ≤ (31 : Nat) ∧
    (31 : Nat) ≤ 31 := by decide

/-- NoXorChainIsSignedSum. -/
theorem witness_no_xor : (⟨.sub, .add, .sub⟩ : OpTriple).a ≠ .xor ∧
    (⟨.sub, .add, .sub⟩ : OpTriple).b ≠ .xor ∧ (⟨.sub, .add, .sub⟩ : OpTriple).c ≠ .xor := by decide

/-- TablesFourToSevenUnread: two ROMs that differ at the first word of table 4 and read alike in tables 0
to 3. -/
theorem witness_tables (t : BitVec 3) (i : BitVec 8) (h : t.toNat < 4) :
    romRead (withRom [(0x400, 1)]).rom t i = romRead (withRom [(0x400, 2)]).rom t i := by
  have ha : ¬ 0x400 = (wordAddr t i).toNat := by
    have hi := i.isLt
    rw [wordAddr, BitVec.toNat_append, ← Nat.shiftLeft_add_eq_or_of_lt hi, Nat.shiftLeft_eq]
    omega
  simp [withRom, romRead, romReadAddr, romCell, ha]

theorem witness_tables_differ :
    romRead (withRom [(0x400, 1)]).rom 4 0 ≠ romRead (withRom [(0x400, 2)]).rom 4 0 := by decide

/-- HistoryDoesNotShow: after reset, and after a request served. -/
theorem witness_history (a : BitVec 11) :
    romReadAddr State.reset.rom a = romReadAddr (State.reset.deliver (.sboxRd 0 0) (.q 0)).rom a := rfl

/-- RomNeverChanges, OneResponsePerRequest: a step that serves a request goes on. -/
theorem witness_run :
    step (withRequests [.tbl 0x57F]) = .next ((withRequests [.tbl 0x57F]).retire.deliver
      (.sboxRd 5 0x7F) (.q (romRead [] 5 0x7F))) ∧
    core.run 1 (withRequests [.tbl 0x57F]) = .next ((withRequests [.tbl 0x57F]).retire.deliver
      (.sboxRd 5 0x7F) (.q (romRead [] 5 0x7F))) :=
  ⟨rfl, rfl⟩

/-- What a ROM with nothing listed reads. -/
theorem initDone_of_nothing_listed {s : State} (h : s.rom = []) : InitDone s := by
  intro t i
  have h1 : (wordAddr t i).extractLsb' 8 3 = t := packTbl_tsel t i
  have h2 : (wordAddr t i).extractLsb' 0 8 = i := packTbl_idx t i
  simp [h, romRead, romReadAddr, romCell, unlistedWord, h1, h2]

/-- InitDoneFromThenOn: from reset, through a request abandoned by a reset and a request served. -/
theorem witness_initDone : InitDone State.reset ∧
    afterEvents [.present v16, .assertReset, .step, .releaseReset, .present (.tbl 0x57F), .step] State.reset
      = some ((withRequests [.tbl 0x57F]).retire.deliver (.sboxRd 5 0x7F) (.q (romRead [] 5 0x7F))) :=
  ⟨initDone_of_nothing_listed rfl, rfl⟩

/-- StepKeepsInv, HostKeepsInv: a state with a request in flight. -/
theorem witness_inv : Inv (withRequests [.tbl 0x57F]) ∧
    step (withRequests [.tbl 0x57F]) = .next ((withRequests [.tbl 0x57F]).retire.deliver
      (.sboxRd 5 0x7F) (.q (romRead [] 5 0x7F))) :=
  ⟨⟨rfl, by decide, by intro a h; cases h⟩, rfl⟩

/-- CanonicalRomsAreEqual: a ROM that lists its last word. -/
theorem witness_canonical : Rom.wf [(0x7FF, unlistedWord 0x7FF#11 + 1)] = true := by
  simp [Rom.wf, romWfFrom]

/-- EveryRequestIsAnswered: a request on each port. -/
theorem witness_answered : (withRequests [v16, .tbl 0x57F]).resetAsserted = false ∧
    ∀ q ∈ (withRequests [v16, .tbl 0x57F]).inFlight, q.wellFormed = true :=
  ⟨rfl, by decide⟩

/-- SchedulesGiveTheSameResponses: the same two requests presented in either order. -/
theorem witness_schedules :
    (withRequests [v16, .tbl 0x57F]).rom = (withRequests [.tbl 0x57F, v16]).rom ∧
    (withRequests [v16, .tbl 0x57F]).resetAsserted = false ∧
    (withRequests [.tbl 0x57F, v16]).resetAsserted = false ∧
    (withRequests [v16, .tbl 0x57F]).inFlight.Perm (withRequests [.tbl 0x57F, v16]).inFlight ∧
    ∀ q ∈ (withRequests [v16, .tbl 0x57F]).inFlight, q.wellFormed = true :=
  ⟨rfl, rfl, rfl, List.Perm.swap _ _ _, by decide⟩

/-- RepeatedRequestSameResponse, IdleStepChangesNothing, PresentedRequestIsAnswered, DriverRound, RoundTrip,
and the last clause of RequestLinesReadBack: an idle core that has answered something. -/
theorem witness_idle : Idle (State.reset.deliver (.sboxRd 0 0) (.q 0)) := ⟨rfl, rfl⟩

/-- RoundTypesCycle: rounds 0, 1, 2 and 15. -/
theorem witness_round_types : (0 : Nat) < 16 ∧ 0 % 3 + 1 = 1 ∧ 1 % 3 + 1 = 2 ∧ 2 % 3 + 1 = 3 ∧
    (15 : Nat) < 16 ∧ 15 % 3 + 1 = 1 := by decide

/-- RequestLinesReadBack: the name of the example line of 30_encoding R56. -/
theorem witness_name : NameInText ['f'] := ⟨by decide, by decide, fun _ h => List.mem_singleton.1 h ▸ by decide⟩

/-- SimultaneousAssignment: the driver's variables before line 2 of 95 program P2. -/
theorem witness_env :
    Env.get [(['L'], 0x01234567), (['R'], 0x89ABCDEF), (['f'], 0x7CA2FEDA)] ['L'] = some 0x01234567 ∧
    Env.get [(['L'], 0x01234567), (['R'], 0x89ABCDEF), (['f'], 0x7CA2FEDA)] ['R'] = some 0x89ABCDEF ∧
    Env.get [(['L'], 0x01234567), (['R'], 0x89ABCDEF), (['f'], 0x7CA2FEDA)] ['f'] = some 0x7CA2FEDA := by
  decide

end Sys2Proof.Tests
end

/-! ### 00_scope: the word operators, the rotation, the lanes, and what a step serves -/

namespace Sys2Proof.Machine

open Sys2Proof.Spec

/-! The three operators as natural-number arithmetic (00_scope R8). -/

@[simp] theorem toNat_add32 (a b : Word) : (add32 a b).toNat = addN a.toNat b.toNat :=
  BitVec.toNat_add a b

@[simp] theorem toNat_sub32 (a b : Word) : (sub32 a b).toNat = subN a.toNat b.toNat := by
  simp only [sub32, subN, BitVec.toNat_sub]
  split <;> omega

@[simp] theorem toNat_xor32 (a b : Word) : (xor32 a b).toNat = xorN a.toNat b.toNat :=
  BitVec.toNat_xor a b

@[simp] theorem toNat_applyOp (op : Op) (a b : Word) :
    (applyOp op a b).toNat = applyN op a.toNat b.toNat := by
  cases op with
  | add => exact toNat_add32 a b
  | sub => exact toNat_sub32 a b
  | xor => exact toNat_xor32 a b

@[simp] theorem getLsbD_xor32 (a b : Word) (k : Nat) :
    (xor32 a b).getLsbD k = (a.getLsbD k != b.getLsbD k) :=
  BitVec.getLsbD_xor

/-- Exclusive-or with all ones is the complement. -/
theorem xor32_ones (b : Word) : xor32 b 0xFFFFFFFF#32 = ~~~b :=
  BitVec.xor_allOnes

/-- Subtraction adds the two's complement (41 R70 (c)). -/
theorem sub32_eq_add32_complement (a b : Word) :
    sub32 a b = add32 a (add32 (xor32 b 0xFFFFFFFF#32) 1#32) := by
  rw [xor32_ones]
  calc a - b = a + -b := BitVec.sub_eq_add_neg a b
    _ = a + (~~~b + 1#32) := by rw [BitVec.neg_eq_not_add]

/-! The rotation by its bits and by its formula (00_scope R9). -/

/-- A bit of the rotated word: the low `n` bits come round from the top, the others move up by `n`. -/
theorem getLsbD_rotl32 (x : Word) (n : BitVec 5) (j : Nat) :
    (rotl32 x n).getLsbD j =
      if j < n.toNat then x.getLsbD (32 - n.toNat + j)
      else decide (j < 32) && x.getLsbD (j - n.toNat) := by
  rw [rotl32, BitVec.getLsbD_rotateLeft_of_le n.isLt, Bool.cond_decide]

/-- Rotation carries bit `k` to bit `(k + n) mod 32`. -/
theorem getLsbD_rotl32_add_mod (x : Word) (n : BitVec 5) {k : Nat} (hk : k < 32) :
    (rotl32 x n).getLsbD ((k + n.toNat) % 32) = x.getLsbD k := by
  have hn := n.isLt
  rw [getLsbD_rotl32]
  by_cases hwrap : k + n.toNat < 32
  · have hj : (k + n.toNat) % 32 = k + n.toNat := Nat.mod_eq_of_lt hwrap
    simp [hj, hwrap]
  · have hj : (k + n.toNat) % 32 = k + n.toNat - 32 := by omega
    rw [hj, if_pos (by omega)]
    congr 1
    omega

/-- A left shift inside the word keeps the low `32 - n` bits, scaled by `2 ^ n`. -/
theorem mul_two_pow_mod_word (x : Nat) {n : Nat} (hn : n ≤ 32) :
    x * 2 ^ n % 2 ^ 32 = 2 ^ n * (x % 2 ^ (32 - n)) := by
  rw [← Nat.mul_mod_mul_left, ← Nat.pow_add, Nat.add_sub_cancel' hn, Nat.mul_comm]

/-- The two parts of a rotation share no bit, so their disjunction is their sum. -/
theorem rotation_parts_or_eq_add (x : Word) {n : Nat} (hn : n ≤ 32) :
    x.toNat * 2 ^ n % 2 ^ 32 ||| x.toNat / 2 ^ (32 - n) =
      x.toNat * 2 ^ n % 2 ^ 32 + x.toNat / 2 ^ (32 - n) := by
  have hlow : x.toNat / 2 ^ (32 - n) < 2 ^ n := by
    apply Nat.div_lt_of_lt_mul
    rw [← Nat.pow_add, Nat.sub_add_cancel hn]
    exact x.isLt
  rw [mul_two_pow_mod_word _ hn, Nat.two_pow_add_eq_or_of_lt hlow]

@[simp] theorem toNat_rotl32 (x : Word) (n : BitVec 5) :
    (rotl32 x n).toNat = rotlN x.toNat n.toNat := by
  have hn : n.toNat < 32 := n.isLt
  rw [rotl32, BitVec.toNat_rotateLeft, Nat.mod_eq_of_lt hn, Nat.shiftLeft_eq,
    Nat.shiftRight_eq_div_pow, rotation_parts_or_eq_add x hn.le, rotlN]
  split
  case isTrue h0 => simp [h0, Nat.mod_eq_of_lt x.isLt, Nat.div_eq_of_lt x.isLt]
  case isFalse => rfl

/-! The lanes and the lane map (00_scope R10, 41 R65). -/

/-- A field cut from a word is the bits `hi:lo` of its number. -/
theorem toNat_extractLsb'_eq_bitsOf {w : Nat} (x : BitVec w) {hi lo len : Nat}
    (hlen : hi - lo + 1 = len) : (x.extractLsb' lo len).toNat = bitsOf x.toNat hi lo := by
  rw [BitVec.extractLsb'_toNat, Nat.shiftRight_eq_div_pow, bitsOf, hlen]

@[simp] theorem toNat_laneOf_lane3 (u : Word) : (laneOf .lane3 u).toNat = bitsOf u.toNat 31 24 :=
  toNat_extractLsb'_eq_bitsOf u rfl

@[simp] theorem toNat_laneOf_lane2 (u : Word) : (laneOf .lane2 u).toNat = bitsOf u.toNat 23 16 :=
  toNat_extractLsb'_eq_bitsOf u rfl

@[simp] theorem toNat_laneOf_lane1 (u : Word) : (laneOf .lane1 u).toNat = bitsOf u.toNat 15 8 :=
  toNat_extractLsb'_eq_bitsOf u rfl

@[simp] theorem toNat_laneOf_lane0 (u : Word) : (laneOf .lane0 u).toNat = bitsOf u.toNat 7 0 :=
  toNat_extractLsb'_eq_bitsOf u rfl

/-- The four lanes, highest first, are the word. -/
theorem append_lanes (u : Word) :
    laneOf .lane3 u ++ laneOf .lane2 u ++ laneOf .lane1 u ++ laneOf .lane0 u = u := by
  simp only [laneOf]
  rw [BitVec.extractLsb'_append_extractLsb'_eq_extractLsb' (show 24 = 16 + 8 from rfl),
    BitVec.extractLsb'_append_extractLsb'_eq_extractLsb' (show 16 = 8 + 8 from rfl),
    BitVec.extractLsb'_append_extractLsb'_eq_extractLsb' (show 8 = 0 + 8 from rfl)]
  exact BitVec.extractLsb'_eq_self

@[simp] theorem laneMap_table0 : laneMap.table0 = .lane1 := rfl
@[simp] theorem laneMap_table1 : laneMap.table1 = .lane0 := rfl
@[simp] theorem laneMap_table2 : laneMap.table2 = .lane3 := rfl
@[simp] theorem laneMap_table3 : laneMap.table3 = .lane2 := rfl

/-- Settles O18, by the position of each bit, and by the two parts of the rotation sharing no bit. -/
theorem rotationIsCircular : Obligations.RotationIsCircular := by
  intro x n
  exact ⟨fun _ hk => getLsbD_rotl32_add_mod x n hk, toNat_rotl32 x n⟩

/-- Settles O20: each lane is one field of the word, and the lane map only renames the lanes. -/
theorem lanesAndTheirMap : Obligations.LanesAndTheirMap := by
  intro u
  rw [laneMap_table0, laneMap_table1, laneMap_table2, laneMap_table3]
  have h3 := toNat_laneOf_lane3 u
  have h2 := toNat_laneOf_lane2 u
  have h1 := toNat_laneOf_lane1 u
  have h0 := toNat_laneOf_lane0 u
  exact ⟨h3, h2, h1, h0, append_lanes u, h1, h0, h3, h2, append_lanes u⟩

/-- Settles O1: the state `exec` runs at is the one `State.retire` leaves. -/
theorem stepServesChosenRequest : Obligations.StepServesChosenRequest :=
  ⟨fun _ => chosen_lt, fun _ _ _ => step_serves⟩

/-- Settles O21, operator by operator. -/
theorem wordOperators : Obligations.WordOperators := by
  intro op a b
  exact ⟨toNat_applyOp op a b, getLsbD_xor32 a b, sub32_eq_add32_complement a b⟩

end Sys2Proof.Machine

/-! ### 10_state: what the ROM determines, what a step keeps, and the canonical form -/

namespace Sys2Proof.Machine

open Sys2Proof.Spec

/-! An instruction's answer, as one function of the ROM and the request (30_encoding R59). -/

@[simp] theorem instr_ask_round (ops : OpTriple) (km : Word) (kr : BitVec 5) (r : Word) :
    (Instr.round ops km kr r).ask = .transform ops km kr r := by
  obtain ⟨a, b, c⟩ := ops
  cases a <;> cases b <;> cases c <;> rfl

@[simp] theorem response_round (m : Rom) (ops : OpTriple) (km : Word) (kr : BitVec 5) (r : Word) :
    response m (Instr.round ops km kr r) = .f (roundF laneMap ops m km kr r) := by
  rw [response, instr_ask_round]

/-- Every instruction completes, in every state, by delivering its own response. -/
theorem exec_eq_deliver_response (i : Instr) (s : State) :
    exec i s = .next (s.deliver i (response s.rom i)) := by
  cases i <;> rfl

theorem answersWith_response (i : Instr) (s : State) : AnswersWith i s (response s.rom i) :=
  exec_eq_deliver_response i s

/-! What a response can depend on: the words of tables 0 to 3 for a `ROUND`, the words read for any
request. -/

/-- The four lookups read no table but 0 to 3, whatever the lane map (41 R66). -/
theorem lookup_congr {m m' : Rom}
    (h : ∀ (t : BitVec 3) (i : BitVec 8), t.toNat < 4 → romRead m t i = romRead m' t i)
    (lanes : LaneMap) (u : Word) : lookup lanes m u = lookup lanes m' u := by
  have h0 := fun i => h 0#3 i (by decide)
  have h1 := fun i => h 1#3 i (by decide)
  have h2 := fun i => h 2#3 i (by decide)
  have h3 := fun i => h 3#3 i (by decide)
  simp only [lookup, h0, h1, h2, h3]

theorem roundF_congr {m m' : Rom}
    (h : ∀ (t : BitVec 3) (i : BitVec 8), t.toNat < 4 → romRead m t i = romRead m' t i)
    (lanes : LaneMap) (ops : OpTriple) (km : Word) (kr : BitVec 5) (r : Word) :
    roundF lanes ops m km kr r = roundF lanes ops m' km kr r :=
  congrArg (combine ops) (lookup_congr h lanes _)

/-- Two ROMs that read alike give every request the same response. -/
theorem response_congr {m m' : Rom} (h : ∀ a, romReadAddr m a = romReadAddr m' a) (i : Instr) :
    response m i = response m' i := by
  have hread : ∀ t x, romRead m t x = romRead m' t x := fun t x => h (wordAddr t x)
  unfold response
  cases i.ask with
  | table t x => exact congrArg Response.q (hread t x)
  | transform ops km kr r =>
    exact congrArg Response.f (roundF_congr (fun t x _ => hread t x) laneMap ops km kr r)

/-! What a step keeps: the ROM (10_state R16) and the invariant. -/

theorem step_rom {s t : State} (h : step s = .next t) : t.rom = s.rom := by
  obtain ⟨-, rfl⟩ | ⟨-, -, rfl⟩ | ⟨-, _, _, _, -, -, -, rfl⟩ := step_cases h
  · exact abandon_rom s
  · rfl
  · exact deliver_rom _ _ _

/-- One more right response leaves every response right. -/
theorem answersRight_deliver {s : State} (h : AnswersRight s) (i : Instr) :
    AnswersRight (s.deliver i (response s.rom i)) := by
  intro a ha
  obtain hold | rfl : a ∈ s.answers ∨ a = ⟨i, response s.rom i⟩ := by simpa using ha
  · exact h a hold
  · rfl

theorem inv_abandon {s : State} (h : Inv s) : Inv s.abandon where
  rom_wf := h.rom_wf
  reset_empty _ := rfl
  answers_right := h.answers_right

/-- Serving a request keeps the invariant: it happens only with reset released. -/
theorem inv_retire_deliver {s : State} (h : Inv s) (hr : s.resetAsserted = false) (i : Instr) :
    Inv (s.retire.deliver i (response s.rom i)) where
  rom_wf := h.rom_wf
  reset_empty hreset := absurd (hr.symm.trans hreset) Bool.false_ne_true
  answers_right := answersRight_deliver (s := s.retire) h.answers_right i

/-! A request put to an idle core (70 R122): the next step answers it (log entries 3, 14). -/

/-- Every instruction is read back from its request. -/
theorem decode_encode (i : Instr) : decode (encode i) = .ok i := by
  cases i with
  | sboxRd t x => simp [encode, decode, decodeTbl]
  | _ km kr r => exact decode_packRnd _ kr km r

/-- The state in which an idle core has answered `i`. -/
def State.served (s : State) (i : Instr) : State :=
  { s with answers := s.answers ++ [⟨i, response s.rom i⟩], arbiterTick := s.arbiterTick + 1 }

@[simp] theorem served_rom (s : State) (i : Instr) : (s.served i).rom = s.rom := rfl
@[simp] theorem served_answers (s : State) (i : Instr) :
    (s.served i).answers = s.answers ++ [⟨i, response s.rom i⟩] := rfl

theorem idle_served {s : State} (h : Idle s) (i : Instr) : Idle (s.served i) := h

/-- A request presented to an idle core is the one the next step serves. -/
theorem step_present_of_idle {s : State} (h : Idle s) (i : Instr) :
    step (s.present (encode i)) = .next (s.served i) := by
  obtain ⟨hr, hempty⟩ := h
  have hin : (s.present (encode i)).inFlight = [encode i] := by
    rw [present_inFlight_released _ hr, hempty, List.nil_append]
  have hq : (s.present (encode i)).inFlight[(s.present (encode i)).chosen]? = some (encode i) := by
    rw [chosen_of_singleton hin, hin]; rfl
  rw [step_serves ((present_resetAsserted s _).trans hr) hq (decode_encode i),
    exec_eq_deliver_response]
  simp [State.served, State.deliver, State.retire, chosen_of_singleton hin, hin, hempty]

/-- Asked of an idle core, a request gets the response it has under the ROM. -/
theorem ask_of_idle {s : State} (h : Idle s) (i : Instr) :
    ask i s = some (response s.rom i, s.served i) := by
  simp [ask, step_present_of_idle h]

/-- Any list of requests asked of an idle core is answered, and leaves it idle with its ROM. -/
theorem askAll_of_idle (is : List Instr) {s : State} (h : Idle s) :
    ∃ t, askAll is s = some t ∧ Idle t ∧ t.rom = s.rom := by
  induction is generalizing s with
  | nil => exact ⟨s, rfl, h, rfl⟩
  | cons i is ih =>
    obtain ⟨t, hask, hidle, hrom⟩ := ih (idle_served h i)
    refine ⟨t, ?_, hidle, hrom⟩
    rw [askAll, ask_of_idle h, Option.bind_some, hask]

/-! The canonical form of the ROM (log entry 2): a rising list of exactly the words that differ from
`SBOX_ROM`'s, so the words read fix the list. -/

/-- The canonical form, said of the list as a whole. -/
theorem romWfFrom_iff (lo : Nat) (m : Rom) :
    romWfFrom lo m = true ↔ m.Pairwise (fun p q => p.1 < q.1) ∧
      ∀ p ∈ m, lo ≤ p.1 ∧ p.1 < 2048 ∧ p.2 ≠ unlistedWord (BitVec.ofNat 11 p.1) := by
  induction m generalizing lo with
  | nil => simp [romWfFrom]
  | cons p rest ih =>
    obtain ⟨a, w⟩ := p
    simp only [romWfFrom, Bool.and_eq_true, decide_eq_true_eq, ih, List.pairwise_cons,
      List.forall_mem_cons]
    constructor
    · rintro ⟨⟨⟨hlo, ha⟩, hw⟩, hrest, hall⟩
      exact ⟨⟨fun q hq => (hall q hq).1, hrest⟩, ⟨hlo, ha, hw⟩,
        fun q hq => ⟨by have := (hall q hq).1; omega, (hall q hq).2⟩⟩
    · rintro ⟨⟨hlt, hrest⟩, ⟨hlo, ha, hw⟩, hall⟩
      exact ⟨⟨⟨hlo, ha⟩, hw⟩, hrest, fun q hq => ⟨hlt q hq, (hall q hq).2⟩⟩

theorem wf_pairwise {m : Rom} (h : m.wf = true) : m.Pairwise (fun p q => p.1 < q.1) :=
  ((romWfFrom_iff 0 m).1 h).1

/-- Addresses that rise list no address twice, so a cell of the list is the one found. -/
theorem romCell_eq_some_iff {m : Rom} (h : m.Pairwise (fun p q => p.1 < q.1)) (a : Nat) (w : Word) :
    romCell m a = some w ↔ (a, w) ∈ m := by
  induction m with
  | nil => simp [romCell]
  | cons p rest ih =>
    obtain ⟨k, v⟩ := p
    obtain ⟨hlt, hrest⟩ := List.pairwise_cons.1 h
    by_cases hk : k = a
    · subst hk
      have hnot : (k, w) ∉ rest := fun hmem => lt_irrefl k (hlt _ hmem)
      simp [romCell, hnot, eq_comm]
    · simp [romCell, hk, ih hrest, Ne.symm hk]

/-- The cells of a canonical ROM are the words it reads that differ from `SBOX_ROM`'s. -/
theorem mem_iff_of_wf {m : Rom} (h : m.wf = true) (p : Nat × Word) :
    p ∈ m ↔ ∃ a : BitVec 11, romReadAddr m a ≠ unlistedWord a ∧ (a.toNat, romReadAddr m a) = p := by
  have hcell := romCell_eq_some_iff (wf_pairwise h)
  constructor
  · intro hmem
    obtain ⟨-, hlt, hne⟩ := ((romWfFrom_iff 0 m).1 h).2 p hmem
    have ha : (BitVec.ofNat 11 p.1).toNat = p.1 := Nat.mod_eq_of_lt hlt
    have hread : romReadAddr m (BitVec.ofNat 11 p.1) = p.2 := by
      rw [romReadAddr, ha, (hcell p.1 p.2).2 hmem, Option.getD_some]
    exact ⟨BitVec.ofNat 11 p.1, hread ▸ hne, by rw [ha, hread]⟩
  · rintro ⟨a, hne, rfl⟩
    refine (hcell _ _).1 ?_
    cases hc : romCell m a.toNat with
    | none => simp [romReadAddr, hc] at hne
    | some w => simp [romReadAddr, hc]

/-! The state after reset (10_state R27, 70 R114). -/

/-- An unlisted entry reads as the word of its table and index. -/
@[simp] theorem unlistedWord_wordAddr (t : BitVec 3) (i : BitVec 8) :
    unlistedWord (wordAddr t i) = Config.sboxRom t i :=
  congrArg₂ Config.sboxRom (packTbl_tsel t i) (packTbl_idx t i)

/-- A ROM that lists nothing reads as `SBOX_ROM`. -/
@[simp] theorem romRead_nil (t : BitVec 3) (i : BitVec 8) : romRead [] t i = Config.sboxRom t i :=
  unlistedWord_wordAddr t i

/-! The statements. -/

/-- Settles O35, by the three things a step can do: abandon, nothing, or serve one request. -/
theorem stepKeepsInv : Obligations.StepKeepsInv := by
  intro s t hinv hstep
  obtain ⟨-, rfl⟩ | ⟨-, -, rfl⟩ | ⟨hr, _, i, _, -, -, hexec, -⟩ := step_cases hstep
  · exact inv_abandon hinv
  · exact hinv
  · rw [exec_eq_deliver_response] at hexec
    exact Host.Outcome.next.inj hexec ▸ inv_retire_deliver hinv hr i

/-- Settles O24: under any lane map the lookups read tables 0 to 3 alone. -/
theorem tablesFourToSevenUnread : Obligations.TablesFourToSevenUnread := by
  intro ops km kr r s s' h
  have hF : ∀ lanes, roundF lanes ops s.rom km kr r = roundF lanes ops s'.rom km kr r :=
    fun lanes => roundF_congr h lanes ops km kr r
  have hanswer (u : State) :
      AnswersWith (Instr.round ops km kr r) u (.f (roundF laneMap ops u.rom km kr r)) :=
    response_round u.rom ops km kr r ▸ answersWith_response _ u
  exact ⟨hF, _, hanswer s, hF laneMap ▸ hanswer s'⟩

/-- Settles O29: the response is a function of the words the ROM reads. -/
theorem historyDoesNotShow : Obligations.HistoryDoesNotShow := by
  intro i s s' h
  exact ⟨_, answersWith_response i s, response_congr h i ▸ answersWith_response i s'⟩

/-- Settles O31, along every run by `step_rom`. -/
theorem romNeverChanges : Obligations.RomNeverChanges :=
  ⟨fun n _ _ => run_induction (P := fun s t => t.rom = s.rom) (fun _ => rfl)
      (fun h h' => h'.trans h) step_rom n,
    fun s q => ⟨present_rom s q, assertReset_rom s, releaseReset_rom s⟩⟩

/-- Settles O30: the requests in between leave the ROM, and the ROM fixes the response. -/
theorem repeatedRequestSameResponse : Obligations.RepeatedRequestSameResponse := by
  intro i others s h
  obtain ⟨s2, hothers, hidle, hrom⟩ := askAll_of_idle others (idle_served h i)
  have hsame : response s2.rom i = response s.rom i := by rw [hrom, served_rom]
  exact ⟨_, _, s2, _, ask_of_idle h i, hothers, hsame ▸ ask_of_idle hidle i⟩

/-- Settles O37: the two lists have the same cells and both rise. -/
theorem canonicalRomsAreEqual : Obligations.CanonicalRomsAreEqual := by
  intro m m' h h' hread
  have hmem (p : Nat × Word) : p ∈ m ↔ p ∈ m' := by
    simp only [mem_iff_of_wf h, mem_iff_of_wf h', hread]
  have hp := wf_pairwise h
  have hp' := wf_pairwise h'
  have hnodup {l : Rom} (hl : l.Pairwise (fun p q => p.1 < q.1)) : l.Nodup :=
    hl.imp fun hlt heq => hlt.ne (congrArg Prod.fst heq)
  have hperm : m.Perm m' := (List.perm_ext_iff_of_nodup (hnodup hp) (hnodup hp')).2 hmem
  exact hperm.eq_of_pairwise (fun _ _ _ _ hlt hgt => absurd hlt hgt.asymm) hp hp'

/-- Settles O16: delivering an answer touches the responses alone. -/
theorem instructionsFrame : Obligations.InstructionsFrame := by
  intro i s t h
  obtain ⟨v, rfl⟩ := exec_cases h
  exact ⟨fun _ => rfl, deliver_rom s i v, deliver_resetAsserted s i v, deliver_inFlight s i v,
    deliver_arbiterTick s i v, v, deliver_answers s i v⟩

/-- Settles O27: nothing is listed in the ROM and nothing is in flight. -/
theorem stateAfterReset : Obligations.StateAfterReset :=
  ⟨romRead_nil, rfl, rfl, rfl⟩

/-- Settles O34: the three clauses speak of empty lists. -/
theorem invAtReset : Obligations.InvAtReset where
  rom_wf := rfl
  reset_empty _ := rfl
  answers_right _ h := absurd h List.not_mem_nil

end Sys2Proof.Machine

/-! ### 20_memory: the initialization barrier, and every schedule of the requests in flight -/

namespace Sys2Proof.Machine

open Sys2Proof.Spec

/-! A well-formed request is the request of an instruction (30_encoding R45, R47, R49, R53). -/

/-- The 2-bit code of an operator (30_encoding R49). -/
def opCode : Op → BitVec 2
  | .add => 0b00#2
  | .sub => 0b01#2
  | .xor => 0b10#2

/-- The `OPSEL` of an operator triple (30_encoding R50). -/
def opselOf (ops : OpTriple) : BitVec 6 := opCode ops.a ++ opCode ops.b ++ opCode ops.c

theorem encode_round (ops : OpTriple) (km : Word) (kr : BitVec 5) (r : Word) :
    encode (Instr.round ops km kr r) = .rnd (packRnd (opselOf ops) kr km r) := by
  obtain ⟨a, b, c⟩ := ops
  cases a <;> cases b <;> cases c <;> rfl

/-- Every code but the reserved one is an operator's. -/
theorem exists_opCode_eq {c : BitVec 2} (h : codeReserved c = false) : ∃ op, opCode op = c := by
  have hc : c = 0b00#2 ∨ c = 0b01#2 ∨ c = 0b10#2 := by revert c; decide
  obtain rfl | rfl | rfl := hc
  · exact ⟨.add, rfl⟩
  · exact ⟨.sub, rfl⟩
  · exact ⟨.xor, rfl⟩

/-- An `OPSEL` is its three slots (30_encoding R50). -/
theorem append_slots (o : BitVec 6) :
    o.extractLsb' 4 2 ++ o.extractLsb' 2 2 ++ o.extractLsb' 0 2 = o := by
  rw [BitVec.extractLsb'_append_extractLsb'_eq_extractLsb' (show 4 = 2 + 2 from rfl),
    BitVec.extractLsb'_append_extractLsb'_eq_extractLsb' (show 2 = 0 + 2 from rfl)]
  exact BitVec.extractLsb'_eq_self

/-- Every `OPSEL` with no reserved slot is a triple's. -/
theorem exists_opselOf_eq {o : BitVec 6} (h : opselReserved o = false) :
    ∃ ops, opselOf ops = o := by
  simp only [opselReserved, Bool.or_eq_false_iff] at h
  obtain ⟨⟨ha, hb⟩, hc⟩ := h
  obtain ⟨a, ha⟩ := exists_opCode_eq ha
  obtain ⟨b, hb⟩ := exists_opCode_eq hb
  obtain ⟨c, hc⟩ := exists_opCode_eq hc
  exact ⟨⟨a, b, c⟩, by rw [opselOf, ha, hb, hc, append_slots]⟩

/-- A `REQ` is its four fields packed (30_encoding R45). -/
theorem packRnd_fields (req : BitVec 75) :
    packRnd (req.extractLsb' 69 6) (req.extractLsb' 64 5) (req.extractLsb' 32 32)
      (req.extractLsb' 0 32) = req := by
  rw [packRnd, BitVec.extractLsb'_append_extractLsb'_eq_extractLsb' (show 69 = 64 + 5 from rfl),
    BitVec.extractLsb'_append_extractLsb'_eq_extractLsb' (show 64 = 32 + 32 from rfl),
    BitVec.extractLsb'_append_extractLsb'_eq_extractLsb' (show 32 = 0 + 32 from rfl)]
  exact BitVec.extractLsb'_eq_self

/-- A `TREQ` is its two fields packed (30_encoding R47). -/
theorem packTbl_fields (treq : BitVec 11) :
    packTbl (treq.extractLsb' 8 3) (treq.extractLsb' 0 8) = treq := by
  rw [packTbl, BitVec.extractLsb'_append_extractLsb'_eq_extractLsb' (show 8 = 0 + 8 from rfl)]
  exact BitVec.extractLsb'_eq_self

/-- Every well-formed request of either port is the request of an instruction. -/
theorem exists_encode_eq {q : PortWord} (h : q.wellFormed = true) : ∃ i, encode i = q := by
  cases q with
  | tbl treq => exact ⟨decodeTbl treq, congrArg PortWord.tbl (packTbl_fields treq)⟩
  | rnd req =>
    have hslots : opselReserved (req.extractLsb' 69 6) = false := by
      simpa [PortWord.wellFormed] using h
    obtain ⟨ops, hops⟩ := exists_opselOf_eq hslots
    exact ⟨Instr.round ops _ _ _, by rw [encode_round, hops, packRnd_fields]⟩

/-- Two instructions with one request are one instruction. -/
theorem encode_injective : Function.Injective encode := fun i j h =>
  Except.ok.inj ((decode_encode i).symm.trans ((congrArg decode h).trans (decode_encode j)))

/-! One step serves one of the requests in flight (log entry 3). -/

/-- The state in which the chosen request, that of `i`, has been answered. -/
def State.answered (s : State) (i : Instr) : State := s.retire.deliver i (response s.rom i)

@[simp] theorem answered_rom (s : State) (i : Instr) : (s.answered i).rom = s.rom := rfl
@[simp] theorem answered_resetAsserted (s : State) (i : Instr) :
    (s.answered i).resetAsserted = s.resetAsserted := rfl
@[simp] theorem answered_inFlight (s : State) (i : Instr) :
    (s.answered i).inFlight = s.inFlight.eraseIdx s.chosen := rfl
@[simp] theorem answered_answers (s : State) (i : Instr) :
    (s.answered i).answers = s.answers ++ [⟨i, response s.rom i⟩] := rfl

/-- With reset released and well-formed requests in flight, a step answers one of them, and that one
leaves those in flight. -/
theorem exists_step_eq_answered {s : State} (hr : s.resetAsserted = false) (hne : s.inFlight ≠ [])
    (hwf : ∀ q ∈ s.inFlight, q.wellFormed = true) :
    ∃ i, step s = .next (s.answered i) ∧
      (encode i :: (s.answered i).inFlight).Perm s.inFlight := by
  have hlt := chosen_lt hne
  obtain ⟨i, hi⟩ := exists_encode_eq (hwf _ (List.getElem_mem hlt))
  refine ⟨i, ?_, hi ▸ List.getElem_cons_eraseIdx_perm hlt⟩
  have hq : s.inFlight[s.chosen]? = some (encode i) := by rw [List.getElem?_eq_getElem hlt, hi]
  rw [step_serves hr hq (decode_encode i)]
  exact exec_eq_deliver_response i s.retire

/-! Right answers are fixed by their requests (30_encoding R59). -/

/-- The right answer to `i` under the ROM. -/
def rightAnswer (m : Rom) (i : Instr) : Answer := ⟨i, response m i⟩

theorem map_rightAnswer_requests {m : Rom} {l : List Answer}
    (h : ∀ a ∈ l, a.response = response m a.request) :
    (l.map Answer.request).map (rightAnswer m) = l := by
  rw [List.map_map]
  refine (List.map_congr_left fun a ha => ?_).trans (List.map_id l)
  simp [rightAnswer, ← h a ha]

/-- Right answers to the same requests are the same answers, up to order. -/
theorem perm_of_right_answers {m : Rom} {l l' : List Answer}
    (h : ∀ a ∈ l, a.response = response m a.request)
    (h' : ∀ a ∈ l', a.response = response m a.request)
    (hperm : (l.map fun a => encode a.request).Perm (l'.map fun a => encode a.request)) :
    l.Perm l' := by
  have hrequests : (l.map Answer.request).Perm (l'.map Answer.request) :=
    (List.map_perm_map_iff encode_injective).1 (by simpa [Function.comp_def] using hperm)
  calc l = (l.map Answer.request).map (rightAnswer m) := (map_rightAnswer_requests h).symm
    List.Perm _ ((l'.map Answer.request).map (rightAnswer m)) := hrequests.map _
    _ = l' := map_rightAnswer_requests h'

/-! What the core and the host do in between leaves the ROM (20_memory R38). -/

theorem afterEvent_rom {e : Event} {s t : State} (h : afterEvent e s = some t) : t.rom = s.rom := by
  obtain ⟨-, hstep⟩ | ⟨q, -, rfl⟩ | ⟨-, rfl⟩ | ⟨-, rfl⟩ := afterEvent_cases h
  · exact step_rom hstep
  · exact present_rom s q
  · exact assertReset_rom s
  · exact releaseReset_rom s

theorem afterEvents_rom (es : List Event) {s t : State} (h : afterEvents es s = some t) :
    t.rom = s.rom :=
  afterEvents_induction (P := fun s t => t.rom = s.rom) (fun _ => rfl) (fun h h' => h'.trans h)
    afterEvent_rom es h

/-! The statements. -/

/-- Settles O39, by induction on the number of requests in flight: each step answers one of them. -/
theorem everyRequestIsAnswered : Obligations.EveryRequestIsAnswered := by
  intro s hr hwf
  induction hn : s.inFlight.length generalizing s with
  | zero =>
    have hnil := List.eq_nil_of_length_eq_zero hn
    exact ⟨s, [], rfl, hnil, rfl, by simp, by simp [hnil], by simp⟩
  | succ n ih =>
    have hne : s.inFlight ≠ [] := List.ne_nil_of_length_eq_add_one hn
    obtain ⟨i, hstep, hperm⟩ := exists_step_eq_answered hr hne hwf
    have hlen : (s.answered i).inFlight.length = n :=
      Nat.succ.inj (hperm.length_eq.trans hn)
    have hrest : ∀ q ∈ (s.answered i).inFlight, q.wellFormed = true := fun q hq =>
      hwf q (hperm.subset (List.mem_cons_of_mem _ hq))
    obtain ⟨t, new, hrun, hdone, hrom, hanswers, hnew, hright⟩ := ih (s.answered i) hr hrest hlen
    refine ⟨t, ⟨i, response s.rom i⟩ :: new, (run_succ_of_step n hstep).trans hrun, hdone, hrom, ?_,
      (hnew.cons (encode i)).trans hperm, List.forall_mem_cons.2 ⟨rfl, hright⟩⟩
    rw [hanswers, answered_answers, List.append_assoc, List.singleton_append]

/-- Settles O40: in either order each request is answered once, by the response the ROM fixes. -/
theorem schedulesGiveTheSameResponses : Obligations.SchedulesGiveTheSameResponses := by
  intro s s' hrom hr hr' hperm hwf
  obtain ⟨t, new, hrun, -, -, hanswers, hnew, hright⟩ := everyRequestIsAnswered s hr hwf
  obtain ⟨t', new', hrun', -, -, hanswers', hnew', hright'⟩ :=
    everyRequestIsAnswered s' hr' fun q hq => hwf q (hperm.symm.subset hq)
  have hsame : new.Perm new' :=
    perm_of_right_answers hright (hrom ▸ hright') ((hnew.trans hperm).trans hnew'.symm)
  exact ⟨t, t', new, new', hrun, hrun', hanswers, hanswers', hsame⟩

/-- Settles O33: the ROM is as it was, and a read returns the word it holds. -/
theorem initDoneFromThenOn : Obligations.InitDoneFromThenOn := by
  intro events s t hinit hevents
  have hdone : InitDone t := fun x i => by rw [afterEvents_rom events hevents, hinit x i]
  exact ⟨hdone, fun x i => hdone x i ▸ answersWith_response (.sboxRd x i) t⟩

/-- Settles O32: the ROM lists nothing at reset. -/
theorem initDoneAtReset : Obligations.InitDoneAtReset := romRead_nil

end Sys2Proof.Machine

/-! ### 30_encoding: requests and their fields, what a step answers or refuses, lines of text -/

namespace Sys2Proof.Machine

open Sys2Proof.Spec

/-! The fields of a request as numbers (30_encoding R45, R47). -/

theorem extractLsb'_eq_ofNat_bitsOf {w : Nat} (x : BitVec w) {hi lo len : Nat}
    (hlen : hi - lo + 1 = len) :
    x.extractLsb' lo len = BitVec.ofNat len (bitsOf x.toNat hi lo) := by
  rw [← toNat_extractLsb'_eq_bitsOf x hlen, BitVec.ofNat_toNat, BitVec.setWidth_eq]

/-- Appending places the first operand above all bits of the second. -/
theorem toNat_append_eq_add {m n : Nat} (x : BitVec m) (y : BitVec n) :
    (x ++ y).toNat = x.toNat * 2 ^ n + y.toNat := by
  rw [BitVec.toNat_append, ← Nat.shiftLeft_add_eq_or_of_lt y.isLt, Nat.shiftLeft_eq]

theorem toNat_packRnd (o : BitVec 6) (kr : BitVec 5) (km r : Word) :
    (packRnd o kr km r).toNat =
      o.toNat * 2 ^ 69 + kr.toNat * 2 ^ 64 + km.toNat * 2 ^ 32 + r.toNat := by
  simp only [packRnd, toNat_append_eq_add]
  omega

theorem toNat_opCode (op : Op) : (opCode op).toNat = codeN op := by
  cases op <;> rfl

theorem toNat_opselOf (ops : OpTriple) :
    (opselOf ops).toNat = 16 * codeN ops.a + 4 * codeN ops.b + codeN ops.c := by
  simp only [opselOf, toNat_append_eq_add, toNat_opCode]
  omega

/-! Which round requests decode, and to what: the slots of an `OPSEL` by their codes (30_encoding
R49, R50, R53). -/

theorem toNat_slotA (o : BitVec 6) : (o.extractLsb' 4 2).toNat = bitsOf o.toNat 5 4 :=
  toNat_extractLsb'_eq_bitsOf o rfl

theorem toNat_slotB (o : BitVec 6) : (o.extractLsb' 2 2).toNat = bitsOf o.toNat 3 2 :=
  toNat_extractLsb'_eq_bitsOf o rfl

theorem toNat_slotC (o : BitVec 6) : (o.extractLsb' 0 2).toNat = bitsOf o.toNat 1 0 :=
  toNat_extractLsb'_eq_bitsOf o rfl

theorem ofCode_of_toNat_ne_three {c : BitVec 2} (h : c.toNat ≠ 3) :
    Op.ofCode c = some (opN c.toNat) := by
  revert c; decide

theorem ofCode_of_toNat_eq_three {c : BitVec 2} (h : c.toNat = 3) : Op.ofCode c = none := by
  revert c; decide

/-- A round request with no slot `11` is the operation of the operators its slots name. -/
theorem decode_packRnd_of_not_slotReserved {o : BitVec 6} (h : ¬ SlotReserved o.toNat)
    (kr : BitVec 5) (km r : Word) :
    decode (.rnd (packRnd o kr km r)) = .ok (Instr.round
      ⟨opN (bitsOf o.toNat 5 4), opN (bitsOf o.toNat 3 2), opN (bitsOf o.toNat 1 0)⟩ km kr r) := by
  simp only [SlotReserved, not_or, ← toNat_slotA, ← toNat_slotB, ← toNat_slotC] at h ⊢
  obtain ⟨ha, hb, hc⟩ := h
  rw [decode_packRnd, ofCode_of_toNat_ne_three ha, ofCode_of_toNat_ne_three hb,
    ofCode_of_toNat_ne_three hc]

/-- A round request with a slot `11` is rejected, and the rejection names its `OPSEL`. -/
theorem decode_packRnd_of_slotReserved {o : BitVec 6} (h : SlotReserved o.toNat)
    (kr : BitVec 5) (km r : Word) :
    decode (.rnd (packRnd o kr km r)) = .error (.reservedOpsel o) := by
  simp only [SlotReserved, ← toNat_slotA, ← toNat_slotB, ← toNat_slotC] at h
  rw [decode_packRnd]
  split
  next a b c ha hb hc =>
    obtain h | h | h := h
    · exact nomatch (ofCode_of_toNat_eq_three h).symm.trans ha
    · exact nomatch (ofCode_of_toNat_eq_three h).symm.trans hb
    · exact nomatch (ofCode_of_toNat_eq_three h).symm.trans hc
  next => rfl

/-- Only a round request with a slot `11` is rejected. -/
theorem decode_eq_error_cases {q : PortWord} {e : DecodeError} (h : decode q = .error e) :
    ∃ (o : BitVec 6) (kr : BitVec 5) (km r : Word),
      q = .rnd (packRnd o kr km r) ∧ e = .reservedOpsel o ∧ SlotReserved o.toNat := by
  cases q with
  | tbl treq => cases h
  | rnd req =>
    rw [← packRnd_fields req] at h
    by_cases hres : SlotReserved (req.extractLsb' 69 6).toNat
    · rw [decode_packRnd_of_slotReserved hres] at h
      exact ⟨_, _, _, _, congrArg PortWord.rnd (packRnd_fields req).symm, (Except.error.inj h).symm,
        hres⟩
    · rw [decode_packRnd_of_not_slotReserved hres] at h
      cases h

theorem opselReserved_iff (o : BitVec 6) : opselReserved o = true ↔ SlotReserved o.toNat := by
  have hcode (c : BitVec 2) : codeReserved c = true ↔ c.toNat = 3 := by revert c; decide
  simp only [opselReserved, SlotReserved, Bool.or_eq_true, hcode, or_assoc, toNat_slotA,
    toNat_slotB, toNat_slotC]

/-- A request that decodes is well formed. -/
theorem wellFormed_of_decode_eq_ok {q : PortWord} {i : Instr} (h : decode q = .ok i) :
    q.wellFormed = true := by
  cases q with
  | tbl treq => rfl
  | rnd req =>
    by_contra hwf
    have hres : SlotReserved (req.extractLsb' 69 6).toNat :=
      (opselReserved_iff _).1 (by simpa [PortWord.wellFormed] using hwf)
    rw [← packRnd_fields req, decode_packRnd_of_slotReserved hres] at h
    cases h

/-- The list of 30_encoding R53 holds the values with a slot `11` and no other. -/
theorem mem_reservedList_iff (o : BitVec 6) : o.toNat ∈ reservedList ↔ SlotReserved o.toNat := by
  unfold SlotReserved
  revert o; decide

/-! The response a step delivers, and the refusal it ends in (30_encoding R59, 60 R105). -/

/-- A step that is refused served a request in flight that does not decode. -/
theorem step_refused_cases {s : State} {x : Refusal} (h : step s = .refused x) :
    ∃ q e, q ∈ s.inFlight ∧ decode q = .error e ∧ x = refusalOf e := by
  unfold step at h
  split at h
  · cases h
  · split at h
    · cases h
    next q t hf =>
      split at h
      · exact absurd h (exec_ne_refused _ _ _)
      next e he =>
        exact ⟨q, e, List.mem_of_getElem? (fetch_eq_some hf).1, he,
          (Host.Outcome.refused.inj h).symm⟩

/-- The request at a place and the others are all of them, up to order. -/
theorem cons_eraseIdx_perm {α : Type} {l : List α} {n : Nat} {a : α} (h : l[n]? = some a) :
    (a :: l.eraseIdx n).Perm l := by
  obtain ⟨hlt, rfl⟩ := List.getElem?_eq_some_iff.1 h
  exact List.getElem_cons_eraseIdx_perm hlt

/-! Every instruction is a table read or a `ROUND` of some triple (30_encoding R52). -/

/-- The instruction that asks for this. -/
def instrOfAsk : Ask → Instr
  | .table t x => .sboxRd t x
  | .transform ops km kr r => Instr.round ops km kr r

theorem instrOfAsk_ask (i : Instr) : instrOfAsk i.ask = i := by
  cases i <;> rfl

/-- What holds of the table reads and of `ROUND` with every triple holds of every instruction. -/
theorem instr_round_cases {P : Instr → Prop} (table : ∀ t x, P (.sboxRd t x))
    (round : ∀ ops km kr r, P (Instr.round ops km kr r)) (i : Instr) : P i := by
  rw [← instrOfAsk_ask i]
  cases i.ask with
  | table t x => exact table t x
  | transform ops km kr r => exact round ops km kr r

/-! Numbers in text: what is written is read back (log entry 16). -/

theorem readDigits_append (digit : Char → Option Nat) (base : Nat) (cs cs' : List Char)
    (acc : Nat) :
    readDigits digit base acc (cs ++ cs') =
      (readDigits digit base acc cs).bind fun n => readDigits digit base n cs' := by
  induction cs generalizing acc with
  | nil => rfl
  | cons c cs ih =>
    simp only [List.cons_append, readDigits]
    cases digit c with
    | none => rfl
    | some d => exact ih _

theorem hexDigit_hexChar {d : Nat} (h : d < 16) : hexDigit (hexChar d) = some d := by
  revert d; decide

theorem length_hexChars (k n : Nat) : (hexChars k n).length = k := by
  induction k generalizing n with
  | zero => rfl
  | succ k ih => simp [hexChars, ih]

theorem readDigits_hexChars {k n : Nat} (h : n < 16 ^ k) :
    readDigits hexDigit 16 0 (hexChars k n) = some n := by
  induction k generalizing n with
  | zero => rw [Nat.lt_one_iff.1 h]; rfl
  | succ k ih =>
    have hhigh : n / 16 < 16 ^ k := Nat.div_lt_of_lt_mul (by rwa [Nat.pow_succ'] at h)
    have hlow : hexDigit (hexChar (n % 16)) = some (n % 16) := hexDigit_hexChar (by omega)
    rw [hexChars, readDigits_append, ih hhigh]
    simp only [Option.bind_some, readDigits, hlow]
    rw [Nat.div_add_mod']

theorem readHex_writeHex {k n : Nat} (h : n < 16 ^ k) : readHex k (writeHex k n) = some n := by
  simp [readHex, writeHex, length_hexChars, readDigits_hexChars h]

theorem decDigit_ofNat {d : Nat} (h : d < 10) : decDigit (Char.ofNat (48 + d)) = some d := by
  revert d; decide

theorem readDec_writeDec {n : Nat} (h : n < 100) : readDec (writeDec n) = some n := by
  unfold writeDec
  split
  case isTrue hn => simp [readDec, readDigits, decDigit_ofNat hn]
  case isFalse =>
    have htens := decDigit_ofNat (show n / 10 < 10 by omega)
    have hones := decDigit_ofNat (show n % 10 < 10 by omega)
    simp only [readDec, readDigits, htens, hones]
    congr 1
    omega

theorem isNumeral_writeDec {n : Nat} (h : n < 100) : isNumeral (writeDec n) = true := by
  unfold writeDec
  split
  case isTrue hn => simp [isNumeral, decDigit_ofNat hn]
  case isFalse => simp [isNumeral, decDigit_ofNat (show n / 10 < 10 by omega)]

theorem isNumeral_writeHex (k n : Nat) : isNumeral (writeHex k n) = true := rfl

theorem readOperand_of_numeral {read : List Char → Option Nat} {bound n : Nat} {w : List Char}
    (hw : isNumeral w = true) (hread : read w = some n) (hn : n < bound) :
    readOperand read bound w = some (.lit n) := by
  simp [readOperand, hw, hread, hn]

theorem readWordOperand_writeHex (x : Word) :
    readWordOperand (writeHex 8 x.toNat) = some (.lit x.toNat) :=
  readOperand_of_numeral (isNumeral_writeHex 8 _) (readHex_writeHex (by omega)) x.isLt

theorem readRotOperand_writeDec (kr : BitVec 5) :
    readRotOperand (writeDec kr.toNat) = some (.lit kr.toNat) := by
  have h : kr.toNat < 100 := by omega
  exact readOperand_of_numeral (isNumeral_writeDec h) (readDec_writeDec h) kr.isLt

theorem readTableOperand_writeDec (t : BitVec 3) :
    readTableOperand (writeDec t.toNat) = some (.lit t.toNat) := by
  have h : t.toNat < 100 := by omega
  exact readOperand_of_numeral (isNumeral_writeDec h) (readDec_writeDec h) t.isLt

theorem readIndexOperand_writeHex (x : BitVec 8) :
    readIndexOperand (writeHex 2 x.toNat) = some (.lit x.toNat) := by
  have hread : readHex 2 (writeHex 2 x.toNat) = some x.toNat := readHex_writeHex (by omega)
  exact readOperand_of_numeral (isNumeral_writeHex 2 _) (by rw [hread]; rfl) x.isLt

theorem readOp_name (op : Op) : readOp (Op.name op) = some op := by
  cases op <;> rfl

/-- A number that fits its field is presented as it stands. -/
theorem value_lit_toNat {width : Nat} (env : Env) (x : BitVec width) :
    (Operand.lit x.toNat).value width env = some x := by
  simp [Operand.value, x.isLt]

/-! The words of a line and their tokens. -/

/-- A word that the tokens of a line can hold. -/
def IsWord (w : List Char) : Prop := w ≠ [] ∧ ∀ c ∈ w, isWordChar c = true

theorem isWord_of_nameInText {x : VarName} (h : NameInText x) : IsWord x := ⟨h.1, h.2.2⟩

/-- The check of a word that stands in the text of a mnemonic. -/
theorem isWord_of_check {w : List Char} (h : (!w.isEmpty && w.all isWordChar) = true) :
    IsWord w := by
  simpa [IsWord] using h

theorem isWord_opName (op : Op) : IsWord (Op.name op) := by
  cases op <;> exact isWord_of_check rfl

theorem isWordChar_hexChar {d : Nat} (h : d < 16) : isWordChar (hexChar d) = true := by
  revert d; decide

theorem isWordChar_of_mem_hexChars {k n : Nat} {c : Char} (h : c ∈ hexChars k n) :
    isWordChar c = true := by
  induction k generalizing n with
  | zero => cases h
  | succ k ih =>
    obtain hhigh | rfl : c ∈ hexChars k (n / 16) ∨ c = hexChar (n % 16) := by
      simpa [hexChars] using h
    · exact ih hhigh
    · exact isWordChar_hexChar (by omega)

theorem isWord_writeHex (k n : Nat) : IsWord (writeHex k n) :=
  ⟨List.cons_ne_nil _ _, List.forall_mem_cons.2 ⟨by decide, List.forall_mem_cons.2
    ⟨by decide, fun _ => isWordChar_of_mem_hexChars⟩⟩⟩

theorem isWord_writeDec {n : Nat} (h : n < 100) : IsWord (writeDec n) := by
  have hdigit : ∀ d < 10, isWordChar (Char.ofNat (48 + d)) = true := by decide
  unfold writeDec
  split
  case isTrue hn => simp [IsWord, hdigit n hn]
  case isFalse =>
    simp [IsWord, hdigit (n / 10) (by omega), hdigit (n % 10) (by omega)]

theorem endWord_of_isWord {w : List Char} (h : IsWord w) (ts : List Token) :
    endWord (w.reverse ++ []) ts = .word w :: ts := by
  simp [endWord, h.1]

/-- A word character joins the word under way. -/
theorem tokens_wordChar {c : Char} (h : isWordChar c = true) (cs acc : List Char) :
    tokens (c :: cs) acc = tokens cs (c :: acc) := by
  have hlt : c ≠ '<' := by rintro rfl; exact absurd h (by decide)
  rw [tokens.eq_3 _ _ _ fun _ hc _ => hlt hc, if_pos h]

theorem tokens_word_append {w : List Char} (h : ∀ c ∈ w, isWordChar c = true) (cs acc : List Char) :
    tokens (w ++ cs) acc = tokens cs (w.reverse ++ acc) := by
  induction w generalizing acc with
  | nil => rfl
  | cons c w ih =>
    obtain ⟨hc, hw⟩ := List.forall_mem_cons.1 h
    rw [List.cons_append, tokens_wordChar hc, ih hw, List.reverse_cons, List.append_assoc]
    rfl

/-! What ends a word, and one lemma for each way a word of a request line ends. -/

section
variable {w cs : List Char} {ts : List Token}

theorem tokens_space (acc : List Char) (h : tokens cs [] = some ts) :
    tokens (' ' :: cs) acc = some (endWord acc ts) := by
  simp [tokens, isWordChar, h]

theorem tokens_dot (acc : List Char) (h : tokens cs [] = some ts) :
    tokens ('.' :: cs) acc = some (endWord acc (.dot :: ts)) := by
  simp [tokens, isWordChar, h]

theorem tokens_comma (acc : List Char) (h : tokens cs [] = some ts) :
    tokens (',' :: cs) acc = some (endWord acc (.comma :: ts)) := by
  simp [tokens, isWordChar, h]

theorem tokens_arrow (acc : List Char) (h : tokens cs [] = some ts) :
    tokens ('<' :: '-' :: cs) acc = some (endWord acc (.arrow :: ts)) := by
  simp [tokens, h]

theorem tokens_word_end (hw : IsWord w) : tokens w [] = some [.word w] := by
  have h := tokens_word_append hw.2 [] []
  rw [List.append_nil] at h
  rw [h, tokens, endWord_of_isWord hw]

theorem tokens_word_space (hw : IsWord w) (h : tokens cs [] = some ts) :
    tokens (w ++ ' ' :: cs) [] = some (.word w :: ts) := by
  rw [tokens_word_append hw.2, tokens_space _ h, endWord_of_isWord hw]

theorem tokens_word_dot (hw : IsWord w) (h : tokens cs [] = some ts) :
    tokens (w ++ '.' :: cs) [] = some (.word w :: .dot :: ts) := by
  rw [tokens_word_append hw.2, tokens_dot _ h, endWord_of_isWord hw]

theorem tokens_word_comma (hw : IsWord w) (h : tokens cs [] = some ts) :
    tokens (w ++ ',' :: ' ' :: cs) [] = some (.word w :: .comma :: ts) := by
  rw [tokens_word_append hw.2, tokens_comma _ (tokens_space [] h), endWord_of_isWord hw]
  rfl

theorem tokens_word_arrow (hw : IsWord w) (h : tokens cs [] = some ts) :
    tokens (w ++ ' ' :: '<' :: '-' :: ' ' :: cs) [] = some (.word w :: .arrow :: ts) :=
  tokens_word_space hw (tokens_arrow [] (tokens_space [] h))

end

/-! A request line's tokens, what they read as, and what the line does (30_encoding R56, R57). -/

section
variable {dst : VarName} (hdst : NameInText dst)
include hdst

theorem tokens_writeRequest_round (ops : OpTriple) (km : Word) (kr : BitVec 5) (r : Word) :
    tokens (writeRequest dst (Instr.round ops km kr r)) [] = some
      [.word dst, .arrow, .word ['R', 'O', 'U', 'N', 'D'], .dot, .word (Op.name ops.a), .dot,
        .word (Op.name ops.b), .dot, .word (Op.name ops.c), .word (writeHex 8 km.toNat), .comma,
        .word (writeDec kr.toNat), .comma, .word (writeHex 8 r.toNat)] := by
  have hround : IsWord ['R', 'O', 'U', 'N', 'D'] := isWord_of_check rfl
  have hline := tokens_word_arrow (isWord_of_nameInText hdst) <| tokens_word_dot hround <|
    tokens_word_dot (isWord_opName ops.a) <| tokens_word_dot (isWord_opName ops.b) <|
    tokens_word_space (isWord_opName ops.c) <| tokens_word_comma (isWord_writeHex 8 km.toNat) <|
    tokens_word_comma (isWord_writeDec (show kr.toNat < 100 by omega)) <|
    tokens_word_end (isWord_writeHex 8 r.toNat)
  simpa [writeRequest, writeMnemonic] using hline

theorem tokens_writeRequest_sboxRd (t : BitVec 3) (x : BitVec 8) :
    tokens (writeRequest dst (.sboxRd t x)) [] = some
      [.word dst, .arrow, .word ['S', 'B', 'O', 'X'], .dot, .word ['R', 'D'],
        .word (writeDec t.toNat), .comma, .word (writeHex 2 x.toNat)] := by
  have hsbox : IsWord ['S', 'B', 'O', 'X'] := isWord_of_check rfl
  have hrd : IsWord ['R', 'D'] := isWord_of_check rfl
  have hline := tokens_word_arrow (isWord_of_nameInText hdst) <| tokens_word_dot hsbox <|
    tokens_word_space hrd <|
    tokens_word_comma (isWord_writeDec (show t.toNat < 100 by omega)) <|
    tokens_word_end (isWord_writeHex 2 x.toNat)
  simpa [writeRequest, writeMnemonic, Instr.ask] using hline

theorem readLine_writeRequest_round (ops : OpTriple) (km : Word) (kr : BitVec 5) (r : Word) :
    readLine (writeRequest dst (Instr.round ops km kr r)) =
      some (.round dst ops (.lit km.toNat) (.lit kr.toNat) (.lit r.toNat)) := by
  rw [readLine, tokens_writeRequest_round hdst, Option.bind_some]
  simp only [readTokens, hdst.2.1, readOp_name, readWordOperand_writeHex, readRotOperand_writeDec,
    and_self, if_true]

theorem readLine_writeRequest_sboxRd (t : BitVec 3) (x : BitVec 8) :
    readLine (writeRequest dst (.sboxRd t x)) =
      some (.sboxRd dst (.lit t.toNat) (.lit x.toNat)) := by
  rw [readLine, tokens_writeRequest_sboxRd hdst, Option.bind_some]
  simp only [readTokens, hdst.2.1, readTableOperand_writeDec, readIndexOperand_writeHex, and_self,
    if_true]

end

theorem request_round_lit (env : Env) (dst : VarName) (ops : OpTriple) (km : Word) (kr : BitVec 5)
    (r : Word) :
    (Line.round dst ops (.lit km.toNat) (.lit kr.toNat) (.lit r.toNat)).request env =
      some (Instr.round ops km kr r) := by
  simp only [Line.request, value_lit_toNat]

theorem request_sboxRd_lit (env : Env) (dst : VarName) (t : BitVec 3) (x : BitVec 8) :
    (Line.sboxRd dst (.lit t.toNat) (.lit x.toNat)).request env = some (.sboxRd t x) := by
  simp only [Line.request, value_lit_toNat]

/-- A `ROUND` line run on an idle core binds its name to the response of its request. -/
theorem runLine_round_of_idle {env : Env} {dst : VarName} {ops : OpTriple} {km kr r : Operand}
    {i : Instr} {s : State} (h : (Line.round dst ops km kr r).request env = some i) (hs : Idle s) :
    runLine (.round dst ops km kr r) env s =
      some (env.set dst (response s.rom i).word, s.served i) := by
  rw [runLine, h, Option.bind_some, ask_of_idle hs, Option.map_some]

/-- An `SBOX.RD` line run on an idle core binds its name to the response of its request. -/
theorem runLine_sboxRd_of_idle {env : Env} {dst : VarName} {t x : Operand} {i : Instr} {s : State}
    (h : (Line.sboxRd dst t x).request env = some i) (hs : Idle s) :
    runLine (.sboxRd dst t x) env s =
      some (env.set dst (response s.rom i).word, s.served i) := by
  rw [runLine, h, Option.bind_some, ask_of_idle hs, Option.map_some]

/-! The driver's variables (30_encoding R58). -/

@[simp] theorem get_set_same (env : Env) (x : VarName) (w : Word) :
    Env.get (Env.set env x w) x = some w := by
  simp [Env.set, Env.get]

/-- Leaving out the cells of another name does not show. -/
theorem get_filter_ne (env : Env) {x y : VarName} (h : y ≠ x) :
    Env.get (env.filter fun p => p.1 ≠ x) y = Env.get env y := by
  induction env with
  | nil => rfl
  | cons p rest ih =>
    obtain ⟨z, w⟩ := p
    by_cases hz : z = x
    · simpa [hz, Env.get, h.symm] using ih
    · rw [List.filter_cons_of_pos (by simpa using hz), Env.get, Env.get, ih]

theorem get_set_ne (env : Env) {x y : VarName} (w : Word) (h : y ≠ x) :
    Env.get (Env.set env x w) y = Env.get env y := by
  rw [Env.set, Env.get, if_neg h.symm, get_filter_ne env h]

/-- The line `drv (L, R) <- (R, xor32(L, f))` (30_encoding R58). -/
def swapLine : Line := .drv [['L'], ['R']] [.var ['R'], .xor32 (.var ['L']) (.var ['f'])]

/-- Both right sides have their values before either variable is assigned. -/
theorem runLine_swapLine {env : Env} {l r f : Word} (s : State) (hl : env.get ['L'] = some l)
    (hr : env.get ['R'] = some r) (hf : env.get ['f'] = some f) :
    runLine swapLine env s = some ((env.set ['L'] r).set ['R'] (xor32 l f), s) := by
  simp [runLine, swapLine, Expr.values, Expr.value, hl, hr, hf, Env.setAll]

/-! The statements. -/

/-- Settles O4: the fields come back by their positions, the operators by their codes. -/
theorem decodeOfEncode : Obligations.DecodeOfEncode := decode_encode

/-- Settles O49: the words of the line come back as its tokens, and each token as what it was
written from; the core being idle, the next step answers. -/
theorem requestLinesReadBack : Obligations.RequestLinesReadBack := by
  intro i dst env hdst
  induction i using instr_round_cases with
  | table t x =>
    have hreq := request_sboxRd_lit env dst t x
    exact ⟨_, readLine_writeRequest_sboxRd hdst t x, hreq,
      fun s hs => ⟨_, runLine_sboxRd_of_idle hreq hs⟩⟩
  | round ops km kr r =>
    have hreq := request_round_lit env dst ops km kr r
    exact ⟨_, readLine_writeRequest_round hdst ops km kr r, hreq,
      fun s hs => ⟨_, runLine_round_of_idle hreq hs⟩⟩

/-- Settles O3: the listed values are those with a slot `11`. -/
theorem reservedOpselsAreTheListed : Obligations.ReservedOpselsAreTheListed := by
  refine ⟨rfl, fun o kr km r => ?_, fun treq => ⟨_, rfl⟩⟩
  by_cases h : SlotReserved o.toNat
  · rw [if_pos ((mem_reservedList_iff o).2 h)]
    exact ⟨h, decode_packRnd_of_slotReserved h kr km r⟩
  · rw [if_neg (mt (mem_reservedList_iff o).1 h)]
    exact ⟨h, _, decode_packRnd_of_not_slotReserved h kr km r⟩

/-- Settles O5: a request that decodes is well formed, so it is some instruction's, and decoding
says whose. -/
theorem encodeOfDecode : Obligations.EncodeOfDecode := by
  intro q i h
  obtain ⟨j, rfl⟩ := exists_encode_eq (wellFormed_of_decode_eq_ok h)
  rw [decode_encode] at h
  exact congrArg encode (Except.ok.inj h).symm

/-- Settles O6: a `REQ` is its four fields packed. -/
theorem roundRequestFields : Obligations.RoundRequestFields := by
  intro req n opsel h
  have ho : opsel = (req.extractLsb' 69 6).toNat := (toNat_extractLsb'_eq_bitsOf req rfl).symm
  rw [ho] at h ⊢
  have hkm := extractLsb'_eq_ofNat_bitsOf req (show 63 - 32 + 1 = 32 from rfl)
  have hkr := extractLsb'_eq_ofNat_bitsOf req (show 68 - 64 + 1 = 5 from rfl)
  have hR := extractLsb'_eq_ofNat_bitsOf req (show 31 - 0 + 1 = 32 from rfl)
  rw [← hkm, ← hkr, ← hR, ← decode_packRnd_of_not_slotReserved h, packRnd_fields]

/-- Settles O8: the slots of `OPSEL` in base 4, the fields of `REQ` at their positions. -/
theorem opselAssembly : Obligations.OpselAssembly := by
  intro ops km kr r
  exact ⟨_, encode_round ops km kr r, by rw [toNat_packRnd, toNat_opselOf]⟩

/-- Settles O38, by the three things a step can do. -/
theorem oneResponsePerRequest : Obligations.OneResponsePerRequest := by
  intro s t h
  obtain ⟨hr, rfl⟩ | ⟨-, hempty, rfl⟩ | ⟨-, q, i, _, hq, hd, hexec, -⟩ := step_cases h
  · exact .inl ⟨rfl, rfl, .inl hr⟩
  · exact .inl ⟨rfl, hempty, .inr hempty⟩
  · rw [exec_eq_deliver_response] at hexec
    obtain rfl := Host.Outcome.next.inj hexec
    exact .inr ⟨q, i, hq, hd, rfl, rfl, cons_eraseIdx_perm hq⟩

/-- Settles O42: there is no fault to raise, and only a reserved `OPSEL` does not decode. -/
theorem onlyReservedOpselsAreRefused : Obligations.OnlyReservedOpselsAreRefused := by
  intro s
  refine ⟨(fun x => nomatch x), fun x h => ?_⟩
  obtain ⟨q, e, hmem, hd, rfl⟩ := step_refused_cases h
  obtain ⟨o, kr, km, r, rfl, rfl, hres⟩ := decode_eq_error_cases hd
  exact ⟨o, kr, km, r, rfl, hmem, hres⟩

/-- Settles O43: the request presented is the only one in flight. -/
theorem presentedRequestIsAnswered : Obligations.PresentedRequestIsAnswered :=
  fun i _ h => step_present_of_idle h i

/-- Settles O50: `L` is assigned the old `R`, and `R` a value made of the old `L`. -/
theorem simultaneousAssignment : Obligations.SimultaneousAssignment := by
  refine ⟨swapLine, by decide, fun env s l r f hl hr hf => ⟨_, runLine_swapLine s hl hr hf, ?_, ?_⟩⟩
  · rw [get_set_ne _ _ (by decide), get_set_same]
  · exact get_set_same _ _ _

/-- Settles O7: a `TREQ` is its two fields. -/
theorem tableRequestFields : Obligations.TableRequestFields := by
  intro treq
  have ht := extractLsb'_eq_ofNat_bitsOf treq (show 10 - 8 + 1 = 3 from rfl)
  have hi := extractLsb'_eq_ofNat_bitsOf treq (show 7 - 0 + 1 = 8 from rfl)
  rw [← ht, ← hi]
  rfl

/-- Settles O9, by running the decoder on the six words. -/
theorem printedRequestsDecode : Obligations.PrintedRequestsDecode :=
  ⟨rfl, rfl, rfl, rfl, rfl, rfl⟩

/-- Settles O15: every arm of `exec` delivers the response of its request. -/
theorem everyInstructionCompletes : Obligations.EveryInstructionCompletes := answersWith_response

/-- Settles O48, by reading the two lines. -/
theorem exampleLinesRead : Obligations.ExampleLinesRead := ⟨by decide, by decide⟩

end Sys2Proof.Machine

/-! ### 40_table_read: the request and the address of a table word, and its two readers -/

namespace Sys2Proof.Machine

open Sys2Proof.Spec

/-! The request and the address of a table word are one number (20_memory R29, 30_encoding R47). -/

theorem wordAddr_eq_ofNat (t : BitVec 3) (i : BitVec 8) :
    wordAddr t i = BitVec.ofNat 11 (256 * t.toNat + i.toNat) := by
  have hlt : 256 * t.toNat + i.toNat < 2 ^ 11 := by omega
  apply BitVec.eq_of_toNat_eq
  rw [wordAddr, toNat_append_eq_add, BitVec.toNat_ofNat, Nat.mod_eq_of_lt hlt]
  omega

theorem encode_sboxRd (t : BitVec 3) (i : BitVec 8) : encode (.sboxRd t i) = .tbl (wordAddr t i) :=
  rfl

/-! What the two readers of the ROM answer (40 R60, 41 R69). -/

theorem answersWith_sboxRd (t : BitVec 3) (i : BitVec 8) (s : State) :
    AnswersWith (.sboxRd t i) s (.q (romRead s.rom t i)) :=
  answersWith_response (.sboxRd t i) s

theorem answersWith_round (ops : OpTriple) (km : Word) (kr : BitVec 5) (r : Word) (s : State) :
    AnswersWith (Instr.round ops km kr r) s (.f (roundF laneMap ops s.rom km kr r)) :=
  response_round s.rom ops km kr r ▸ answersWith_response _ s

/-! The Round Transform as natural-number arithmetic on the words read (41 R63 to R69). -/

@[simp] theorem toNat_rotatedWord (km : Word) (kr : BitVec 5) (r : Word) :
    (rotatedWord km kr r).toNat = rotatedN km kr r := by
  rw [rotatedWord, toNat_rotl32, toNat_add32, rotatedN]

/-- The four words looked up, each at its table and at the bits of its lane (41 R65, R66). -/
theorem lookup_laneMap (m : Rom) (u : Word) :
    lookup laneMap m u =
      { v0 := romRead m 0#3 (BitVec.ofNat 8 (bitsOf u.toNat 15 8))
        v1 := romRead m 1#3 (BitVec.ofNat 8 (bitsOf u.toNat 7 0))
        v2 := romRead m 2#3 (BitVec.ofNat 8 (bitsOf u.toNat 31 24))
        v3 := romRead m 3#3 (BitVec.ofNat 8 (bitsOf u.toNat 23 16)) } := by
  simp only [← toNat_laneOf_lane0, ← toNat_laneOf_lane1, ← toNat_laneOf_lane2,
    ← toNat_laneOf_lane3, BitVec.ofNat_toNat, BitVec.setWidth_eq]
  rfl

@[simp] theorem toNat_combine (ops : OpTriple) (v : TableWords) :
    (combine ops v).toNat =
      applyN ops.c (applyN ops.b (applyN ops.a v.v0.toNat v.v1.toNat) v.v2.toNat) v.v3.toNat := by
  simp only [combine, toNat_applyOp]

/-- `ROUNDF` is the triple's operators on the four words read at the lanes of the rotated word. -/
theorem toNat_roundF (m : Rom) (ops : OpTriple) (km : Word) (kr : BitVec 5) (r : Word) :
    (roundF laneMap ops m km kr r).toNat =
      roundN m (fun v0 v1 v2 v3 => applyN ops.c (applyN ops.b (applyN ops.a v0 v1) v2) v3)
        km kr r := by
  rw [roundF, toNat_combine, lookup_laneMap, toNat_rotatedWord]
  rfl

/-! The statements. -/

/-- Settles O25: both readers read the one ROM, the `ROUND` at the lanes of the rotated word. -/
theorem oneStoreTwoReaders : Obligations.OneStoreTwoReaders := by
  intro ops km kr r s u
  exact ⟨_, _, _, _, _, answersWith_sboxRd 0 _ s, answersWith_sboxRd 1 _ s,
    answersWith_sboxRd 2 _ s, answersWith_sboxRd 3 _ s, answersWith_round ops km kr r s,
    toNat_roundF s.rom ops km kr r⟩

/-- Settles O10: the number of the request is the address of the word. -/
theorem sboxRdReturnsTheWord : Obligations.SboxRdReturnsTheWord := by
  intro t i s
  rw [← wordAddr_eq_ofNat, ← encode_sboxRd]
  exact ⟨rfl, decode_encode _, answersWith_sboxRd t i s⟩

end Sys2Proof.Machine

/-! ### 41_round_transform: the 27 operations, the key sum, the edges of the rotation, the chains -/

namespace Sys2Proof.Machine

open Sys2Proof.Spec

/-! One meaning for every triple (41 R69): its `OPSEL` is the three codes, its formula the three
operators. -/

theorem roundDoes_round (ops : OpTriple) :
    RoundDoes (opselOf ops) (Instr.round ops)
      (fun v0 v1 v2 v3 => applyN ops.c (applyN ops.b (applyN ops.a v0 v1) v2) v3) := by
  intro km kr r s
  refine ⟨?_, _, answersWith_round ops km kr r s, toNat_roundF s.rom ops km kr r⟩
  rw [← encode_round, decode_encode]

/-- What a function `g` makes of the words read is what it makes of the four lookups. -/
theorem roundN_eq_lookup (m : Rom) (g : Nat → Nat → Nat → Nat → Nat) (km : Word)
    (kr : BitVec 5) (r : Word) :
    let v := lookup laneMap m (rotatedWord km kr r)
    roundN m g km kr r = g v.v0.toNat v.v1.toNat v.v2.toNat v.v3.toNat := by
  rw [lookup_laneMap, toNat_rotatedWord]
  rfl

/-- With every field 0 the rotated word is 0, and so is each of its lanes. -/
theorem roundN_zero (m : Rom) (g : Nat → Nat → Nat → Nat → Nat) :
    roundN m g 0 0 0 = g (romN m 0 0) (romN m 1 0) (romN m 2 0) (romN m 3 0) := by
  have hu : rotatedN 0 0 0 = 0 := rfl
  rw [roundN, hu]
  rfl

/-- Steps 1 and 2 see the key and the half only in their sum (41 R63, R64). -/
theorem rotatedWord_congr {km r km' r' : Word}
    (h : (km.toNat + r.toNat) % 2 ^ 32 = (km'.toNat + r'.toNat) % 2 ^ 32) (kr : BitVec 5) :
    rotatedWord km kr r = rotatedWord km' kr r' := by
  have hsum : add32 km r = add32 km' r' := by
    apply BitVec.eq_of_toNat_eq
    rw [toNat_add32, toNat_add32]
    exact h
  exact congrArg (rotl32 · kr) hsum

/-! The edges of the rotation (41 R73). -/

theorem rotl32_zero (x : Word) : rotl32 x 0#5 = x := by
  apply BitVec.eq_of_toNat_eq
  rw [toNat_rotl32]
  rfl

theorem toNat_rotl32_31 (x : Word) :
    (rotl32 x 31#5).toNat = x.toNat / 2 + 2 ^ 31 * (x.toNat % 2) := by
  have hlow : x.toNat * 2 ^ 31 % 2 ^ 32 = 2 ^ 31 * (x.toNat % 2) :=
    mul_two_pow_mod_word x.toNat (by decide)
  calc (rotl32 x 31#5).toNat = x.toNat * 2 ^ 31 % 2 ^ 32 + x.toNat / 2 := toNat_rotl32 x 31#5
    _ = x.toNat / 2 + 2 ^ 31 * (x.toNat % 2) := by rw [hlow, Nat.add_comm]

/-- Two rotations whose amounts make a whole turn undo each other. -/
theorem rotl32_rotl32_of_full_turn (x : Word) {n m : BitVec 5} (h : n.toNat + m.toNat = 32) :
    rotl32 (rotl32 x n) m = x := by
  apply BitVec.eq_of_getLsbD_eq
  intro k hk
  have hback : ((k + n.toNat) % 32 + m.toNat) % 32 = k := by omega
  calc (rotl32 (rotl32 x n) m).getLsbD k
      = (rotl32 (rotl32 x n) m).getLsbD (((k + n.toNat) % 32 + m.toNat) % 32) := by rw [hback]
    _ = (rotl32 x n).getLsbD ((k + n.toNat) % 32) :=
      getLsbD_rotl32_add_mod _ m (Nat.mod_lt _ (by decide))
    _ = x.getLsbD k := getLsbD_rotl32_add_mod x n hk

/-! Chains of operators (41 R67, R70). -/

/-- ADD before SUB re-associates. -/
theorem sub32_add32 (a b c : Word) : sub32 (add32 a b) c = add32 a (sub32 b c) :=
  add_sub_assoc a b c

/-- Without XOR, one operator adds a signed word modulo 2^32. -/
theorem toNat_applyOp_eq_signed {op : Op} (h : op ≠ .xor) (a b : Word) :
    ((applyOp op a b).toNat : Int) = (a.toNat + signedN op b.toNat) % 2 ^ 32 := by
  have ha := a.isLt
  have hb := b.isLt
  rw [toNat_applyOp]
  cases op with
  | add => simp only [applyN, addN, signedN, reduceCtorEq, if_false]; omega
  | sub => simp only [applyN, subN, signedN, if_true]; split <;> omega
  | xor => exact absurd rfl h

/-- Without XOR, the combination of the four words is their signed sum modulo 2^32. -/
theorem toNat_combine_eq_signed {ops : OpTriple} (ha : ops.a ≠ .xor) (hb : ops.b ≠ .xor)
    (hc : ops.c ≠ .xor) (v : TableWords) :
    ((combine ops v).toNat : Int) =
      (v.v0.toNat + signedN ops.a v.v1.toNat + signedN ops.b v.v2.toNat
        + signedN ops.c v.v3.toNat) % 2 ^ 32 := by
  rw [combine, toNat_applyOp_eq_signed hc, toNat_applyOp_eq_signed hb, toNat_applyOp_eq_signed ha]
  omega

/-! The statements. -/

/-- Settles O11: each of the nine is `ROUND` with its own triple. -/
theorem roundsWithOpaAdd : Obligations.RoundsWithOpaAdd :=
  ⟨roundDoes_round ⟨.add, .add, .add⟩, roundDoes_round ⟨.add, .add, .sub⟩,
    roundDoes_round ⟨.add, .add, .xor⟩, roundDoes_round ⟨.add, .sub, .add⟩,
    roundDoes_round ⟨.add, .sub, .sub⟩, roundDoes_round ⟨.add, .sub, .xor⟩,
    roundDoes_round ⟨.add, .xor, .add⟩, roundDoes_round ⟨.add, .xor, .sub⟩,
    roundDoes_round ⟨.add, .xor, .xor⟩⟩

/-- Settles O12: each of the nine is `ROUND` with its own triple. -/
theorem roundsWithOpaSub : Obligations.RoundsWithOpaSub :=
  ⟨roundDoes_round ⟨.sub, .add, .add⟩, roundDoes_round ⟨.sub, .add, .sub⟩,
    roundDoes_round ⟨.sub, .add, .xor⟩, roundDoes_round ⟨.sub, .sub, .add⟩,
    roundDoes_round ⟨.sub, .sub, .sub⟩, roundDoes_round ⟨.sub, .sub, .xor⟩,
    roundDoes_round ⟨.sub, .xor, .add⟩, roundDoes_round ⟨.sub, .xor, .sub⟩,
    roundDoes_round ⟨.sub, .xor, .xor⟩⟩

/-- Settles O13: each of the nine is `ROUND` with its own triple. -/
theorem roundsWithOpaXor : Obligations.RoundsWithOpaXor :=
  ⟨roundDoes_round ⟨.xor, .add, .add⟩, roundDoes_round ⟨.xor, .add, .sub⟩,
    roundDoes_round ⟨.xor, .add, .xor⟩, roundDoes_round ⟨.xor, .sub, .add⟩,
    roundDoes_round ⟨.xor, .sub, .sub⟩, roundDoes_round ⟨.xor, .sub, .xor⟩,
    roundDoes_round ⟨.xor, .xor, .add⟩, roundDoes_round ⟨.xor, .xor, .sub⟩,
    roundDoes_round ⟨.xor, .xor, .xor⟩⟩

/-- Settles O14: the request is that of the triple its slots name. -/
theorem roundIsOneFunction : Obligations.RoundIsOneFunction := by
  intro opsel kr km r s h
  exact ⟨_, _, decode_packRnd_of_not_slotReserved h kr km r, answersWith_round _ km kr r s,
    toNat_roundF s.rom _ km kr r⟩

/-- Settles O17: the transform reads the key and the half through the rotated word alone. -/
theorem onlyTheKeySumMatters : Obligations.OnlyTheKeySumMatters := by
  intro ops km r km' r' kr s h
  have hF : roundF laneMap ops s.rom km' kr r' = roundF laneMap ops s.rom km kr r := by
    rw [roundF, ← rotatedWord_congr h, roundF]
  exact ⟨_, answersWith_round ops km kr r s, hF ▸ answersWith_round ops km' kr r' s⟩

/-- Settles O19: the two ends by the rotation's formula, the way back bit by bit. -/
theorem rotationEdges : Obligations.RotationEdges := by
  intro x
  refine ⟨rotl32_zero x, toNat_rotl32_31 x, fun n h1 h31 => rotl32_rotl32_of_full_turn x ?_⟩
  simp only [BitVec.toNat_ofNat]
  omega

/-- Settles O23: each operator of the chain adds a signed word. -/
theorem noXorChainIsSignedSum : Obligations.NoXorChainIsSignedSum := by
  intro ops km kr r s ha hb hc
  exact ⟨_, answersWith_round ops km kr r s, _, _, _, _, roundN_eq_lookup _ _ km kr r,
    roundN_eq_lookup _ _ km kr r, roundN_eq_lookup _ _ km kr r, roundN_eq_lookup _ _ km kr r,
    toNat_combine_eq_signed ha hb hc _⟩

/-- Settles O22: on (1, 1, 1) the first chains give 1 and 3, on (0, 0, 1) the second -1 and 1. -/
theorem chainsDoNotReassociate : Obligations.ChainsDoNotReassociate :=
  ⟨⟨1, 1, 1, by decide⟩, ⟨0, 0, 1, by decide⟩, sub32_add32⟩

/-- Settles O26: `ROUND.ADD.XOR.SUB` on words read at index 0. -/
theorem sanityScenario : Obligations.SanityScenario := by
  refine ⟨decode_encode (.roundAddXorSub 0 0 0), fun s => ?_⟩
  obtain ⟨-, w, hw, hF⟩ := roundDoes_round ⟨.add, .xor, .sub⟩ 0 0 0 s
  exact ⟨w, hw, hF.trans (roundN_zero s.rom _)⟩

end Sys2Proof.Machine

/-! ### 60_exceptions: the refusal of a reserved `OPSEL` -/

namespace Sys2Proof.Machine

/-- A step whose chosen request does not decode refuses it, with the mark of its decode error. -/
theorem step_refuses {s : State} {q : PortWord} {e : DecodeError} (hr : s.resetAsserted = false)
    (hq : s.inFlight[s.chosen]? = some q) (hd : decode q = .error e) :
    step s = .refused (refusalOf e) := by
  simp [step, hr, State.fetch, hq, hd]

/-- Settles O2: a slot `11` is a decode error that names the `OPSEL`, and the refusal keeps the name. -/
theorem stepRefusesReservedOpsel : Obligations.StepRefusesReservedOpsel :=
  fun _ _ kr km r hres hr hq => step_refuses hr hq (decode_packRnd_of_slotReserved hres kr km r)

end Sys2Proof.Machine

/-! ### 70_reset_and_hazards: reset, the host's actions, and the driver's rounds -/

namespace Sys2Proof.Machine

/-! Reset and the idle core (70 R114, R115, R126). -/

/-- While reset is asserted a step serves nothing. -/
theorem step_of_asserted {s : State} (h : s.resetAsserted = true) : step s = .next s.abandon :=
  if_pos h

/-- A step of an idle core finds no request to serve. -/
theorem step_of_idle {s : State} (h : Idle s) : step s = .next s := by
  obtain ⟨hr, hempty⟩ := h
  simp [step, hr, (fetch_eq_none_iff s).2 hempty]

/-- Asserting reset leaves nothing in flight that a step could still abandon. -/
theorem step_assertReset (s : State) : step s.assertReset = .next s.assertReset :=
  step_of_asserted (assertReset_resetAsserted s)

theorem idle_releaseReset {s : State} (h : s.inFlight = []) : Idle s.releaseReset := ⟨rfl, h⟩

/-! The host's three actions keep the invariant (70 R122). -/

/-- A request is accepted only with reset released, where the invariant asks nothing of it. -/
theorem inv_present {s : State} (h : Inv s) (q : PortWord) : Inv (s.present q) := by
  cases hr : s.resetAsserted with
  | true => rwa [present_asserted q hr]
  | false =>
    exact {
      rom_wf := (present_rom s q).symm ▸ h.rom_wf
      reset_empty := fun hreset => by simp [hr] at hreset
      answers_right := by simpa [AnswersRight] using h.answers_right }

theorem inv_assertReset {s : State} (h : Inv s) : Inv s.assertReset where
  rom_wf := h.rom_wf
  reset_empty _ := rfl
  answers_right := h.answers_right

theorem inv_releaseReset {s : State} (h : Inv s) : Inv s.releaseReset where
  rom_wf := h.rom_wf
  reset_empty hreset := absurd hreset Bool.false_ne_true
  answers_right := h.answers_right

/-! The driver's rounds over an idle core (70 R117, R118): the value of `F` is the Round Transform of
the ROM, and the request leaves the core idle with that ROM. -/

/-- The halves after a round of the cipher, `F` the Round Transform of the ROM (70 R118). -/
def Halves.afterRound (m : Rom) (ops : OpTriple) (k : Subkey) (h : Halves) : Halves :=
  ⟨h.r, xor32 h.l (roundF laneMap ops m k.km k.kr h.r)⟩

/-- The half that a round passes on unchanged is the left one after it. -/
@[simp] theorem afterRound_l (m : Rom) (ops : OpTriple) (k : Subkey) (h : Halves) :
    (h.afterRound m ops k).l = h.r := rfl
@[simp] theorem afterRound_r (m : Rom) (ops : OpTriple) (k : Subkey) (h : Halves) :
    (h.afterRound m ops k).r = xor32 h.l (roundF laneMap ops m k.km k.kr h.r) := rfl

theorem roundForward_of_idle {s : State} (hs : Idle s) (ops : OpTriple) (k : Subkey) (h : Halves) :
    roundForward ops k h s =
      some (h.afterRound s.rom ops k, s.served (Instr.round ops k.km k.kr h.r)) := by
  simp [roundForward, ask_of_idle hs, Response.word, Halves.afterRound]

theorem roundBackward_of_idle {s : State} (hs : Idle s) (ops : OpTriple) (k : Subkey) (h : Halves) :
    roundBackward ops k h s =
      some (⟨xor32 h.r (roundF laneMap ops s.rom k.km k.kr h.l), h.l⟩,
        s.served (Instr.round ops k.km k.kr h.l)) := by
  simp [roundBackward, ask_of_idle hs, Response.word]

/-- Masking twice with the same word gives the word back. -/
theorem xor32_xor32_cancel (a b : Word) : xor32 (xor32 a b) b = a := by
  simp [xor32]

/-- On any idle core with the same ROM, the round back undoes the round forward: the half that passed
unchanged is the operand of both, so both mask with the same `F`. -/
theorem roundBackward_afterRound {s u : State} (hu : Idle u) (hrom : u.rom = s.rom)
    (ops : OpTriple) (k : Subkey) (h : Halves) :
    roundBackward ops k (h.afterRound s.rom ops k) u =
      some (h, u.served (Instr.round ops k.km k.kr h.r)) := by
  rw [roundBackward_of_idle hu, hrom, afterRound_l, afterRound_r, xor32_xor32_cancel]

/-- The rounds forward complete, and from any idle core with the same ROM the rounds back lead from
their halves to the ones they began with. The backward pass starts anew at the end of the list, so the
core it starts from stands for any. -/
theorem roundsBackward_roundsForward (rounds : List (OpTriple × Subkey)) (h : Halves) {s : State}
    (hs : Idle s) :
    ∃ h' t, roundsForward rounds h s = some (h', t) ∧ Idle t ∧ t.rom = s.rom ∧
      ∀ u, Idle u → u.rom = s.rom →
        ∃ u', roundsBackward rounds h' u = some (h, u') ∧ Idle u' ∧ u'.rom = s.rom := by
  induction rounds generalizing h s with
  | nil => exact ⟨h, s, rfl, hs, rfl, fun u hu hrom => ⟨u, rfl, hu, hrom⟩⟩
  | cons round rest ih =>
    obtain ⟨ops, k⟩ := round
    obtain ⟨h', t, hforward, ht, htrom, hback⟩ :=
      ih (h.afterRound s.rom ops k) (idle_served hs (Instr.round ops k.km k.kr h.r))
    refine ⟨h', t, ?_, ht, htrom, fun u hu hrom => ?_⟩
    · rw [roundsForward, roundForward_of_idle hs, Option.bind_some, hforward]
    · obtain ⟨u', hrest, hu', hrom'⟩ := hback u hu hrom
      refine ⟨u'.served (Instr.round ops k.km k.kr h.r), ?_, idle_served hu' _, hrom'⟩
      rw [roundsBackward, hrest, Option.bind_some]
      exact roundBackward_afterRound hu' hrom' ops k h

/-! The driver's schedule and its rotation amounts (70 R119, R120). -/

/-- Round types are numbered from 1 (70 R119). -/
theorem tripleOfRound_eq (v : RoundTypes) (n : Nat) :
    tripleOfRound v n =
      if n % 3 + 1 = 1 then v.type1 else if n % 3 + 1 = 2 then v.type2 else v.type3 := by
  simp [tripleOfRound]

theorem schedule_getElem? (v : RoundTypes) (key : Nat → Subkey) {n : Nat} (h : n < Config.nRounds) :
    (schedule v key)[n]? = some (tripleOfRound v n, key n) := by
  simp [schedule, List.getElem?_range h]

/-- The amount reduced modulo 32 fits the five bits of `KR` as it is. -/
theorem toNat_subkeyOf_kr (km : Word) (amount : Nat) :
    (subkeyOf km amount).kr.toNat = amount % 32 :=
  (BitVec.toNat_ofNat (amount % 32) 5).trans (Nat.mod_mod amount 32)

/-! The statements. -/

/-- Settles O36, by the host's three actions. -/
theorem hostKeepsInv : Obligations.HostKeepsInv :=
  fun _ q h => ⟨inv_present h q, inv_assertReset h, inv_releaseReset h⟩

/-- Settles O44: the next step answers with the Round Transform's word. -/
theorem driverRound : Obligations.DriverRound :=
  fun ops k h s hs => ⟨_, _, response_round s.rom ops k.km k.kr h.r, roundForward_of_idle hs ops k h,
    idle_served hs _, served_rom s _⟩

/-- Settles O45: the rounds back run on the core the rounds forward leave. -/
theorem roundTrip : Obligations.RoundTrip := by
  intro rounds h s hs
  obtain ⟨h', t, hforward, ht, hrom, hback⟩ := roundsBackward_roundsForward rounds h hs
  obtain ⟨t', hbackward, -, -⟩ := hback t ht hrom
  exact ⟨h', t, t', hforward, ht, hbackward⟩

/-- Settles O28: with reset asserted a request is dropped, and a step has nothing to abandon. -/
theorem resetAbandonsRequests : Obligations.ResetAbandonsRequests :=
  fun s q => ⟨assertReset_rom s, assertReset_inFlight s, assertReset_answers s,
    present_asserted q (assertReset_resetAsserted s),
    step_assertReset s, idle_releaseReset (assertReset_inFlight s),
    releaseReset_rom s.assertReset, releaseReset_answers s.assertReset⟩

/-- Settles O41: the fetch finds nothing. -/
theorem idleStepChangesNothing : Obligations.IdleStepChangesNothing := fun _ => step_of_idle

/-- Settles O46: the schedule lists the rounds in order. -/
theorem roundTypesCycle : Obligations.RoundTypesCycle := by
  intro v key
  refine ⟨by simp [schedule, Config.nRounds], fun n hn => ?_⟩
  rw [schedule_getElem? v key hn, tripleOfRound_eq]

/-- Settles O47: the reduced amount goes into the field unchanged. -/
theorem rotationAmountReduced : Obligations.RotationAmountReduced :=
  fun km amount => ⟨toNat_subkeyOf_kr km amount, rfl⟩

end Sys2Proof.Machine
